-- ==== Sys2Proof/Word.lean ====
section
/-! DEFINITION. The two widths of the block: the byte every port carries (R6) and the 10-bit request word (R60). -/

namespace Sys2Proof

/-- The datum of every port and stream: 8 bits, unsigned (R6, R11). -/
abbrev Byte := BitVec 8

/-- A request word `Q`, exactly 10 bits (R60). -/
abbrev ReqWord := BitVec 10

/-- A hexadecimal digit's value, 4 bits (R80). -/
abbrev Nibble := BitVec 4

end Sys2Proof
end

