-- ==== Sys2Proof/Syntax.lean ====
section
/-! DEFINITION. The operations of the block: one constructor of `Instr` per row of the opcode table (R67), and the
unit that executes each (R62 to R65). -/

namespace Sys2Proof

/-- The three units of the block (R1, R16). -/
inductive HwUnit where
  /-- The Hex Encoder: HEX words (R62). -/
  | he
  /-- The Command Frame Builder: FRAME words (R63). -/
  | fb
  /-- The Receive Transcoder: RX and CTL words (R64, R65). -/
  | rt
deriving DecidableEq, Repr

/-- The operation a request word selects (R67).  Operand bytes are the field D of the word (R61). -/
inductive Instr where
  /-- HEX: encode the byte `v` as two ASCII hex characters (R81). -/
  | hex (v : Byte)
  /-- FRAME_I: initialize or reset the module (R93). -/
  | frameI
  /-- FRAME_P: play the current or default track (R94). -/
  | frameP
  /-- FRAME_N: next track (R95). -/
  | frameN
  /-- FRAME_S: stop playback (R96). -/
  | frameS
  /-- FRAME_V: set the volume, fixed level (R97). -/
  | frameV
  /-- FRAME_Q: query status (R98). -/
  | frameQ
  /-- FRAME_Z: test or diagnostic (R99). -/
  | frameZ
  /-- FRAME_UNREC: a command byte `c` that is no token's code (R100). -/
  | frameUnrec (c : Byte)
  /-- RX: transcode the received byte `b` (R111). -/
  | rx (b : Byte)
  /-- BEGIN: enter a burst, the handler's entry (R110). -/
  | beginBurst
  /-- END: leave a burst, the handler's return (R112). -/
  | endBurst
  /-- RESERVED: a CTL word whose selector `d` is neither 0x00 nor 0x01 (R113). -/
  | reserved (d : Byte)
deriving DecidableEq, Repr

/-- The unit that executes an operation (R62 to R65; the "unit" column of the opcode table). -/
def Instr.owner : Instr → HwUnit
  | .hex _ => .he
  | .frameI => .fb
  | .frameP => .fb
  | .frameN => .fb
  | .frameS => .fb
  | .frameV => .fb
  | .frameQ => .fb
  | .frameZ => .fb
  | .frameUnrec _ => .fb
  | .rx _ => .rt
  | .beginBurst => .rt
  | .endBurst => .rt
  | .reserved _ => .rt

end Sys2Proof
end

