-- ==== Sys2Proof/WellFormed.lean ====
section
/-! DEFINITION. Which terms of `Instr` are operations of the block: the operand ranges of R63, R64 and R66. -/

namespace Sys2Proof

/-- The seven command codes of R63: i, p, n, s, v, q, z, in the order of that table. -/
def commandCodes : List Byte := [0x69, 0x70, 0x6E, 0x73, 0x76, 0x71, 0x7A]

/-- An operation's operand lies in its row's range: FRAME_UNREC's byte is none of the seven codes (R100), RESERVED's
selector is neither BEGIN's nor END's (R113); every other operand is any byte. -/
def Instr.wellFormed : Instr → Bool
  | .hex _ => true
  | .frameI => true
  | .frameP => true
  | .frameN => true
  | .frameS => true
  | .frameV => true
  | .frameQ => true
  | .frameZ => true
  | .frameUnrec c => !commandCodes.contains c
  | .rx _ => true
  | .beginBurst => true
  | .endBurst => true
  | .reserved d => d != 0x00 && d != 0x01

end Sys2Proof
end

