-- ==== Sys2Proof/Decode.lean ====
section
/-! DEFINITION. Decoding of request words (R60 to R68), total and rejecting by name, and the encoder. -/

namespace Sys2Proof

/-- The field OP = Q[9:8] (R60). -/
def opField (q : ReqWord) : BitVec 2 := q.extractLsb' 8 2

/-- The field D = Q[7:0], used without extension (R60, R61). -/
def dField (q : ReqWord) : Byte := q.extractLsb' 0 8

/-- FRAME family: an exact 8-bit match against the command codes (R63). -/
def decodeFrame (d : Byte) : Instr :=
  if d = 0x69 then .frameI
  else if d = 0x70 then .frameP
  else if d = 0x6E then .frameN
  else if d = 0x73 then .frameS
  else if d = 0x76 then .frameV
  else if d = 0x71 then .frameQ
  else if d = 0x7A then .frameZ
  else .frameUnrec d

/-- CTL family: the selectors of R64. -/
def decodeCtl (d : Byte) : Instr :=
  if d = 0x00 then .beginBurst
  else if d = 0x01 then .endBurst
  else .reserved d

/-- `decode(Q)` of R67: total on 10-bit words. -/
def decode (q : ReqWord) : Instr :=
  if opField q = 0b00 then .hex (dField q)
  else if opField q = 0b01 then decodeFrame (dField q)
  else if opField q = 0b10 then .rx (dField q)
  else decodeCtl (dField q)

/-- Why a number is no request word. -/
inductive DecodeError where
  /-- The number has a bit above bit 9: a word is exactly 10 bits (R60).  Safe: nothing runs. -/
  | notTenBits (w : Nat)
deriving DecidableEq, Repr

/-- Decoding of any number as a request word: refuses, by name, a number of more than 10 bits. -/
def decodeNat (w : Nat) : Except DecodeError Instr :=
  if w < 1024 then .ok (decode (BitVec.ofNat 10 w)) else .error (.notTenBits w)

/-- The number whose bits a table row of `nbits` bits gives: every bit above `nbits` is 0. -/
def tableNumber (nbits w : Nat) : Nat := w % 2 ^ nbits

/-- The operation the decoder reads from an instruction whose bits are `w` (a table row's `nbits` bits). -/
def decodeTableWord (nbits w : Nat) : Option Instr :=
  match decodeNat (tableNumber nbits w) with
  | .ok i => some i
  | .error _ => none

/-- The word with fields OP and D (R60). -/
def mkWord (op : BitVec 2) (d : Byte) : ReqWord := op.setWidth 10 <<< 8 ||| d.setWidth 10

/-- The word of an operation (the "Encoding" line of each operation's rule). -/
def encode : Instr → ReqWord
  | .hex v => mkWord 0b00 v
  | .frameI => 0x169
  | .frameP => 0x170
  | .frameN => 0x16E
  | .frameS => 0x173
  | .frameV => 0x176
  | .frameQ => 0x171
  | .frameZ => 0x17A
  | .frameUnrec c => mkWord 0b01 c
  | .rx b => mkWord 0b10 b
  | .beginBurst => 0x300
  | .endBurst => 0x301
  | .reserved d => mkWord 0b11 d

/-- The unit a word is presented to, by its OP field alone (R62 to R65). -/
def wordOwner (q : ReqWord) : HwUnit :=
  if opField q = 0b00 then .he else if opField q = 0b01 then .fb else .rt

/-- One row of the opcode table (R68): mask, match, and the operation it stands for given D. -/
structure OpcodeRow where
  mask : ReqWord
  pattern : ReqWord
  op : Byte → Instr

/-- The rows of R68, the exact rows of an OP before its masked row. -/
def opcodeRows : List OpcodeRow :=
  [⟨0x300, 0x000, .hex⟩,
   ⟨0x3FF, 0x169, fun _ => .frameI⟩,
   ⟨0x3FF, 0x170, fun _ => .frameP⟩,
   ⟨0x3FF, 0x16E, fun _ => .frameN⟩,
   ⟨0x3FF, 0x173, fun _ => .frameS⟩,
   ⟨0x3FF, 0x176, fun _ => .frameV⟩,
   ⟨0x3FF, 0x171, fun _ => .frameQ⟩,
   ⟨0x3FF, 0x17A, fun _ => .frameZ⟩,
   ⟨0x300, 0x100, .frameUnrec⟩,
   ⟨0x300, 0x200, .rx⟩,
   ⟨0x3FF, 0x300, fun _ => .beginBurst⟩,
   ⟨0x3FF, 0x301, fun _ => .endBurst⟩,
   ⟨0x300, 0x300, .reserved⟩]

/-- A word matches a row when its masked bits are the row's (R68). -/
def OpcodeRow.hits (r : OpcodeRow) (q : ReqWord) : Bool := q &&& r.mask == r.pattern

/-- Decoding by the table: the first row that matches, tried in the order of `opcodeRows` (R68). -/
def decodeByTable (q : ReqWord) : Option Instr :=
  (opcodeRows.find? (·.hits q)).map fun r => r.op (dField q)

end Sys2Proof
end

