-- ==== Sys2Proof/Config.lean ====
section
/-! DEFINITION. What is fixed for the life of the block (R7 to R9, R17), the agents' steps a schedule is made of
(R135), and the free values: constants without a body. -/

namespace Sys2Proof

/-- CHECKSUM_MODE (R9). -/
inductive ChecksumMode where
  /-- The frame table byte for byte: the default and reference value. -/
  | table
  /-- A true checksum in every 0x7E-framed frame. -/
  | computed
deriving DecidableEq, Repr, Inhabited

/-- The parameters of the block (R8, R9, R17). -/
structure BlockConfig where
  /-- RX_HEADER, the fixed header string of a burst (R8). -/
  rxHeader : List Byte
  /-- CHECKSUM_MODE (R9). -/
  checksumMode : ChecksumMode
  /-- IRQ_NESTING, which no rule of the block reads (R17). -/
  irqNesting : Bool
deriving DecidableEq, Repr

/-- A serial channel's framing (R7). -/
structure ChannelFraming where
  baud : Nat
  dataBits : Nat
  parityBits : Nat
  stopBits : Nat
deriving DecidableEq, Repr

/-- One atomic step of one agent, as the schedule names it (R135, R136). -/
inductive Choice where
  /-- The environment's ARRIVE(b) (R115). -/
  | arrive (b : Byte)
  /-- The environment's SPURIOUS (R116). -/
  | spurious
  /-- The console sink is ready: ACCEPT_CON (R43). -/
  | acceptCon
  /-- The peripheral sink is ready: ACCEPT_PTX (R43). -/
  | acceptPtx
  /-- A word is presented to the unit that owns it: at the command port (R135), or by an external driver (R72). -/
  | present (q : ReqWord)
  /-- The unit attempts the next unexecuted word of its request list (R21). -/
  | run (u : HwUnit)
  /-- The sequencer of RT (R118). -/
  | seq
deriving DecidableEq, Repr, Inhabited

/-- The console channel: 115200 baud, 8N1; no rule depends on it (R7). -/
def Config.consoleFraming : ChannelFraming := ⟨115200, 8, 0, 1⟩

/-- The peripheral channel: 9600 baud, 8N1; no rule depends on it (R7). -/
def Config.peripheralFraming : ChannelFraming := ⟨9600, 8, 0, 1⟩

/-- FREE VALUE: the bytes of RX_HEADER, which no source gives (R8, D8; log 3). -/
opaque Config.rxHeader : List Byte

/-- FREE VALUE: IRQ_NESTING, OPEN in the spec (R17, D9; log 3). -/
opaque Config.irqNesting : Bool

/-- FREE VALUE: the step taken at the n-th draw when no step is scheduled: any step of any agent in any
interleaving (R136), a sink's readiness among them (R43; log 1). -/
opaque Config.choice : Nat → Choice

/-- The configuration at reset: TABLE is the default of R9, the other two are free. -/
def Config.atReset : BlockConfig :=
  { rxHeader := Config.rxHeader, checksumMode := .table, irqNesting := Config.irqNesting }

end Sys2Proof
end

