-- ==== Sys2Proof/Machine/State.lean ====
section
/-! DEFINITION. The machine's state: every element of R34, the request lists of R21, the configuration (R32), the
response port (R33) and the model's two schedule fields; the fault records (R130); the state after reset (R150). -/

namespace Sys2Proof.Machine

/-- ST, the state of the peripheral-channel handler (R22). -/
inductive HandlerState where
  /-- Waiting for an interrupt; the bit 0. -/
  | idle
  /-- Draining the receive buffer; the bit 1. -/
  | servicing
deriving DecidableEq, Repr

/-- The fault records of R130: the contents of the sticky register FAULT, written by `State.raise` alone.  A step of
the model never stops with one (R131: environment steps go on after a fault); the machine's fault outcome has this
type and no step answers it. -/
inductive Fault where
  /-- Code 1, raised by a CTL word with a reserved selector `d`, always.  Safe: the source has no such word. -/
  | reservedRequest (d : Byte)
  /-- Code 2, raised by BEGIN while ST = SERVICING.  Safe: the sequencer never raises it (R118). -/
  | nestedBurst
  /-- Code 3, raised by RX `b` while ST = IDLE.  Safe: the sequencer never raises it (R118). -/
  | rxOutsideBurst (b : Byte)
  /-- Code 4, raised by RX `b` when the receive buffer is empty or its head differs.  Safe: as code 3. -/
  | rxMismatch (b : Byte)
  /-- Code 5, raised by END while ST = IDLE.  Safe: as code 3. -/
  | endOutsideBurst
  /-- Code 6, raised by END while the receive buffer is not empty.  Safe: as code 3. -/
  | endUndrained
deriving DecidableEq, Repr

/-- Why the model has no meaning for an instruction.  No arm of `exec` and no step answers it. -/
inductive Refusal where
  /-- An instruction whose meaning is not written yet.  Safe: nothing runs. -/
  | notModelled (mnemonic : String)
deriving DecidableEq, Repr

/-- A unit's request list (R21), split at its position: the executed words and the words not yet executed, each in
order of presentation. -/
structure Port where
  done : List ReqWord
  waiting : List ReqWord
deriving DecidableEq, Repr

/-- The state of the block and of the environment's schedule. -/
structure State where
  /-- ST (R22). -/
  st : HandlerState
  /-- HDR, the Receive Burst State (R23). -/
  hdr : Bool
  /-- IRQ_PEND (R24). -/
  irqPend : Bool
  /-- FAULT (R25). -/
  fault : Option Fault
  /-- PRX_Q, the receive buffer, its head first (R26). -/
  prxQ : List Byte
  /-- CON_PEND (R27). -/
  conPend : List Byte
  /-- PTX_PEND (R27). -/
  ptxPend : List Byte
  /-- CON_OUT, in acceptance order (R28). -/
  conOut : List Byte
  /-- PTX_OUT, in acceptance order (R28). -/
  ptxOut : List Byte
  /-- HE's request list (R21). -/
  he : Port
  /-- FB's request list (R21). -/
  fb : Port
  /-- RT's request list (R21). -/
  rt : Port
  /-- HE_OUT, present only in the state that a HEX step has just produced (R33; log 2). -/
  heOut : Option (BitVec 16)
  /-- The parameters, fixed for the life of the block (R32; log 3). -/
  cfg : BlockConfig
  /-- The MODEL's own: the steps already chosen, the next first (R136; log 1). -/
  sched : List Choice
  /-- The MODEL's own: how many free choices have been drawn (log 1). -/
  tick : Nat
deriving DecidableEq, Repr

/-- No word executed and none waiting: index 0 (R21). -/
def Port.empty : Port := { done := [], waiting := [] }

/-- The state after reset of a block with the parameters `cfg` (R150); nothing presented, nothing scheduled. -/
def State.resetWith (cfg : BlockConfig) : State :=
  { st := .idle, hdr := false, irqPend := false, fault := none,
    prxQ := [], conPend := [], ptxPend := [], conOut := [], ptxOut := [],
    he := Port.empty, fb := Port.empty, rt := Port.empty,
    heOut := none, cfg := cfg, sched := [], tick := 0 }

/-- The state after reset (R150), with CHECKSUM_MODE at its default and the other parameters free (R8, R9, R17). -/
def State.reset : State := State.resetWith Config.atReset

end Sys2Proof.Machine
end

