-- ==== Sys2Proof/Machine/Ops.lean ====
section
/-! DEFINITION. The primitives of R12 (`Emit`, `Take`, `raise`), the request lists' operations (R21), and the shared
skeleton of a unit's word: the halt of R131, then the hold of R45, then the word's own effect. -/

namespace Sys2Proof.Machine

/-- The encoding of ST in one bit (R22). -/
def HandlerState.bit : HandlerState → Bool
  | .idle => false
  | .servicing => true

/-- The code column of R130. -/
def Fault.code : Fault → Nat
  | .reservedRequest _ => 1
  | .nestedBurst => 2
  | .rxOutsideBurst _ => 3
  | .rxMismatch _ => 4
  | .endOutsideBurst => 5
  | .endUndrained => 6

/-- The "info recorded" column of R130. -/
def Fault.info : Fault → Option Byte
  | .reservedRequest d => some d
  | .nestedBurst => none
  | .rxOutsideBurst b => some b
  | .rxMismatch b => some b
  | .endOutsideBurst => none
  | .endUndrained => none

/-- The index of the next unexecuted word (R21). -/
def Port.index (p : Port) : Nat := p.done.length

/-- A word is presented: it comes after every word presented before it (R21). -/
def Port.present (p : Port) (q : ReqWord) : Port := { p with waiting := p.waiting ++ [q] }

/-- A word is issued as the next one to execute: the sequencer's (R118; log 14). -/
def Port.issue (p : Port) (q : ReqWord) : Port := { p with waiting := q :: p.waiting }

/-- The word `q` has been executed: the index grows by 1 (R21). -/
def Port.retire (p : Port) (q : ReqWord) : Port := { done := p.done ++ [q], waiting := p.waiting.tail }

/-- `Emit(CON, l)` (R29). -/
def State.emitCon (s : State) (l : List Byte) : State := { s with conPend := s.conPend ++ l }

/-- `Emit(PTX, l)` (R29). -/
def State.emitPtx (s : State) (l : List Byte) : State := { s with ptxPend := s.ptxPend ++ l }

/-- The state part of `Take(PRX)`: the head of PRX_Q is removed (R12). -/
def State.takePrx (s : State) : State := { s with prxQ := s.prxQ.tail }

/-- `raise F(info)`: FAULT is set and nothing else changes (R12, R131). -/
def State.raise (s : State) (f : Fault) : State := { s with fault := some f }

/-- HE answers on its response port (R33). -/
def State.respond (s : State) (r : BitVec 16) : State := { s with heOut := some r }

/-- HE has executed the word `q` (R21). -/
def State.retireHe (s : State) (q : ReqWord) : State := { s with he := s.he.retire q }

/-- FB has executed the word `q` (R21). -/
def State.retireFb (s : State) (q : ReqWord) : State := { s with fb := s.fb.retire q }

/-- RT has executed the word `q` (R21). -/
def State.retireRt (s : State) (q : ReqWord) : State := { s with rt := s.rt.retire q }

/-- The sequencer issues the word `q` as RT's next one (R118). -/
def State.issueRt (s : State) (q : ReqWord) : State := { s with rt := s.rt.issue q }

/-- The request list of a unit (R21). -/
def State.port (s : State) : HwUnit → Port
  | .he => s.he
  | .fb => s.fb
  | .rt => s.rt

/-- The next unexecuted word of a unit (R21). -/
def State.fetch (s : State) (u : HwUnit) : Option ReqWord := (s.port u).waiting.head?

/-- No unit executes another word (R131). -/
def State.halted (s : State) : Bool := s.fault.isSome

/-- RT holds (R45). -/
def State.conHeld (s : State) : Bool := !s.conPend.isEmpty

/-- FB holds (R45). -/
def State.ptxHeld (s : State) : Bool := !s.ptxPend.isEmpty

/-- The skeleton of every word (R131, R45): after a fault, or while `held`, the word is not executed and nothing
changes; otherwise it has the effect `act`.  A word that waits is a next state equal to the old one (log 7). -/
def unitStep (held : Bool) (s : State) (act : State → State) : Host.Outcome State Fault Refusal :=
  if s.halted || held then .next s else .next (act s)

/-- The reset of a block in any state (R150): every element as after reset; the parameters are not reset, and the
environment's schedule is no part of the block (log 18). -/
def State.resetBlock (s : State) : State :=
  { State.resetWith s.cfg with sched := s.sched, tick := s.tick }

end Sys2Proof.Machine
end

