-- ==== Sys2Proof/Machine/Operands.lean ====
section
/-! DEFINITION. What the operations compute from their operand byte: the digit map and the digit pair (R80, R81,
R114), the command tokens (R15, R63), the frames (R90 to R92). -/

namespace Sys2Proof.Machine

/-- `v[7:4]` (R11). -/
def hiNibble (v : Byte) : Nibble := v.extractLsb' 4 4

/-- `v[3:0]` (R11). -/
def loNibble (v : Byte) : Nibble := v.extractLsb' 0 4

/-- `HEX_DIGIT(n)` (R80); the codes are ASCII (log 9). -/
def hexDigit (n : Nibble) : Byte :=
  if n ≤ 9 then 0x30 + n.setWidth 8 else 0x37 + n.setWidth 8

/-- `encode_hex_byte(v) = (hi, lo)` (R81). -/
def encodeHexByte (v : Byte) : Byte × Byte := (hexDigit (hiNibble v), hexDigit (loNibble v))

/-- HE_OUT, `(hi << 8) | lo`: the high digit's character in bits 15..8, the low one's in bits 7..0 (R33, R81). -/
def heResponse (v : Byte) : BitVec 16 := (encodeHexByte v).1.setWidth 16 <<< 8 ||| (encodeHexByte v).2.setWidth 16

/-- `digit⁻¹` (R83): the value of an uppercase hex digit's character, none for any other byte. -/
def hexDigitValue (c : Byte) : Option Nibble :=
  if 0x30 ≤ c ∧ c ≤ 0x39 then some ((c - 0x30).setWidth 4)
  else if 0x41 ≤ c ∧ c ≤ 0x46 then some ((c - 0x37).setWidth 4)
  else none

/-- `parse(hi, lo) = 16 · digit⁻¹(hi) + digit⁻¹(lo)` (R83). -/
def parseHexPair (hi lo : Byte) : Option Byte :=
  match hexDigitValue hi, hexDigitValue lo with
  | some h, some l => some (BitVec.ofNat 8 (16 * h.toNat + l.toNat))
  | _, _ => none

/-- The separator: the space (R111, R114; log 9). -/
def separator : Byte := 0x20

/-- `pair(b)`: the two digits of `b` and the separator (R114), by the encoder of HEX (R84). -/
def digitPair (b : Byte) : List Byte := [(encodeHexByte b).1, (encodeHexByte b).2, separator]

/-- A Command (R15): one of seven tokens, or the unrecognized variant. -/
inductive Command where
  | i
  | p
  | n
  | s
  | v
  | q
  | z
  | unrecognized
deriving DecidableEq, Repr

/-- FRAME_ROM (R30, R90); none for the unrecognized variant, which sends no frame. -/
def frameRom : Command → Option (List Byte)
  | .i => some [0x7E, 0xFF, 0x06, 0x09, 0x01, 0x00, 0x02, 0xEF]
  | .p => some [0x7E, 0xFF, 0x06, 0x0D, 0x01, 0x00, 0x00, 0xEF]
  | .n => some [0x7E, 0xFF, 0x06, 0x01, 0x01, 0x00, 0x00, 0xEF]
  | .s => some [0x7E, 0xFF, 0x06, 0x0E, 0x01, 0x00, 0x00, 0xFE, 0xEC, 0xEF]
  | .v => some [0x7E, 0xFF, 0x06, 0x06, 0x01, 0x00, 0x1E, 0xEF]
  | .q => some [0x7E, 0xFF, 0x06, 0x47, 0x00, 0x00, 0x00, 0xEF]
  | .z => some [0x05]
  | .unrecognized => none

/-- `S` of R92: the exact sum of the bytes VERSION to PARAM2 of a table frame (indices 1 to 6). -/
def checksumSum (t : List Byte) : Nat := (((t.drop 1).take 6).map BitVec.toNat).sum

/-- `CS = (0x10000 - S) mod 0x10000` (R92). -/
def checksum (t : List Byte) : BitVec 16 := BitVec.ofNat 16 ((0x10000 - checksumSum t) % 0x10000)

/-- A 0x7E-framed table frame with a true checksum, high byte first, before END (R92, R41). -/
def withChecksum (t : List Byte) : List Byte :=
  t.take 7 ++ [(checksum t).extractLsb' 8 8, (checksum t).extractLsb' 0 8, 0xEF]

/-- `build_frame(mode, c)` (R92). -/
def buildFrame : ChecksumMode → Command → Option (List Byte)
  | .table, c => frameRom c
  | .computed, .z => frameRom .z
  | .computed, c => (frameRom c).map withChecksum

/-- The bytes a FRAME word emits: its frame, nothing when there is none (R92). -/
def frameBytes (mode : ChecksumMode) (c : Command) : List Byte := (buildFrame mode c).getD []

end Sys2Proof.Machine
end

