-- ==== Sys2Proof/Machine/Flags.lean ====
section
/-! DEFINITION. The block's one flag HDR (R23, R35), the handler state beside it (R22), the interrupt status (R24),
and the precondition checks of R130 in the order of R137. -/

namespace Sys2Proof.Machine

/-- Handler entry: IRQ_PEND and HDR are cleared, ST becomes SERVICING (R110, R138). -/
def State.enterBurst (s : State) : State := { s with irqPend := false, hdr := false, st := .servicing }

/-- Handler return: ST becomes IDLE, HDR is cleared, IRQ_PEND stays (R112, R139). -/
def State.leaveBurst (s : State) : State := { s with st := .idle, hdr := false }

/-- RX's write of HDR (R111). -/
def State.markHeader (s : State) : State := { s with hdr := true }

/-- The header RX emits before its digit pair: only while HDR is 0 (R111). -/
def State.pendingHeader (s : State) : List Byte := if s.hdr then [] else s.cfg.rxHeader

/-- BEGIN's check (R110). -/
def beginCheck (s : State) : Option Fault := if s.st = .servicing then some .nestedBurst else none

/-- RX's checks: the state, then the buffer (R111, R137). -/
def rxCheck (b : Byte) (s : State) : Option Fault :=
  if s.st = .idle then some (.rxOutsideBurst b)
  else if s.prxQ.head? = some b then none
  else some (.rxMismatch b)

/-- END's checks: the state, then the buffer (R112, R137). -/
def endCheck (s : State) : Option Fault :=
  if s.st = .idle then some .endOutsideBurst
  else if s.prxQ = [] then none
  else some .endUndrained

/-- A word with a precondition: its first failing check is raised and the word has no other effect (R131, R137);
when none fails it has the effect `act`. -/
def checked (check : State → Option Fault) (act : State → State) (s : State) : State :=
  match check s with
  | some f => s.raise f
  | none => act s

end Sys2Proof.Machine
end

