-- ==== Sys2Proof/Machine/FrameBuilder.lean ====
section
/-! DEFINITION. The Command Frame Builder's operations (R93 to R100), each one line over the family's skeleton. -/

namespace Sys2Proof.Machine

/-- The skeleton of R92's family: hold while PTX_PEND is not empty, then emit the command's frame, if it has one;
`i` is the operation whose word is executed. -/
def frameStep (i : Instr) (c : Command) (s : State) : Host.Outcome State Fault Refusal :=
  unitStep s.ptxHeld s fun s => (s.emitPtx (frameBytes s.cfg.checksumMode c)).retireFb (encode i)

/-- FRAME_I (R93). -/
def execFrameI (s : State) : Host.Outcome State Fault Refusal := frameStep .frameI .i s

/-- FRAME_P (R94). -/
def execFrameP (s : State) : Host.Outcome State Fault Refusal := frameStep .frameP .p s

/-- FRAME_N (R95). -/
def execFrameN (s : State) : Host.Outcome State Fault Refusal := frameStep .frameN .n s

/-- FRAME_S (R96). -/
def execFrameS (s : State) : Host.Outcome State Fault Refusal := frameStep .frameS .s s

/-- FRAME_V (R97). -/
def execFrameV (s : State) : Host.Outcome State Fault Refusal := frameStep .frameV .v s

/-- FRAME_Q (R98). -/
def execFrameQ (s : State) : Host.Outcome State Fault Refusal := frameStep .frameQ .q s

/-- FRAME_Z (R99). -/
def execFrameZ (s : State) : Host.Outcome State Fault Refusal := frameStep .frameZ .z s

/-- FRAME_UNREC (R100): holds like every FRAME word (log 19), then emits nothing. -/
def execFrameUnrec (c : Byte) (s : State) : Host.Outcome State Fault Refusal :=
  frameStep (.frameUnrec c) .unrecognized s

end Sys2Proof.Machine
end

