-- ==== Sys2Proof/Machine/HexEncoder.lean ====
section
/-! DEFINITION. The Hex Encoder's operation (R81). -/

namespace Sys2Proof.Machine

/-- HEX (R81): answers the two digits of `v`; never holds (R45); writes no state but the list position (R21). -/
def execHex (v : Byte) (s : State) : Host.Outcome State Fault Refusal :=
  unitStep false s fun s => (s.respond (heResponse v)).retireHe (encode (.hex v))

end Sys2Proof.Machine
end

