-- ==== Sys2Proof/Machine/ReceiveTranscoder.lean ====
section
/-! DEFINITION. The Receive Transcoder's operations (R110 to R113). -/

namespace Sys2Proof.Machine

/-- BEGIN (R110): enter a burst; IRQ_PEND is cleared unconditionally. -/
def execBeginBurst (s : State) : Host.Outcome State Fault Refusal :=
  unitStep s.conHeld s (checked beginCheck fun s => s.enterBurst.retireRt (encode .beginBurst))

/-- RX (R111): take `b`, emit the header if HDR is 0, then the digit pair of `b`. -/
def execRx (b : Byte) (s : State) : Host.Outcome State Fault Refusal :=
  unitStep s.conHeld s (checked (rxCheck b) fun s =>
    ((s.takePrx.emitCon (s.pendingHeader ++ digitPair b)).markHeader).retireRt (encode (.rx b)))

/-- END (R112): leave the burst; IRQ_PEND stays as it is. -/
def execEndBurst (s : State) : Host.Outcome State Fault Refusal :=
  unitStep s.conHeld s (checked endCheck fun s => s.leaveBurst.retireRt (encode .endBurst))

/-- RESERVED (R113): raises ReservedRequest before the hold check (R137). -/
def execReserved (d : Byte) (s : State) : Host.Outcome State Fault Refusal :=
  unitStep false s fun s => s.raise (.reservedRequest d)

end Sys2Proof.Machine
end

