-- ==== Sys2Proof/Machine/Dispatch.lean ====
section
/-! DEFINITION. One arm per operation, each a call of its meaning. -/

namespace Sys2Proof.Machine

def exec (i : Instr) (s : State) : Host.Outcome State Fault Refusal :=
  match i with
  | .hex v => Sys2Proof.Machine.execHex v s
  | .frameI => Sys2Proof.Machine.execFrameI s
  | .frameP => Sys2Proof.Machine.execFrameP s
  | .frameN => Sys2Proof.Machine.execFrameN s
  | .frameS => Sys2Proof.Machine.execFrameS s
  | .frameV => Sys2Proof.Machine.execFrameV s
  | .frameQ => Sys2Proof.Machine.execFrameQ s
  | .frameZ => Sys2Proof.Machine.execFrameZ s
  | .frameUnrec c => Sys2Proof.Machine.execFrameUnrec c s
  | .rx b => Sys2Proof.Machine.execRx b s
  | .beginBurst => Sys2Proof.Machine.execBeginBurst s
  | .endBurst => Sys2Proof.Machine.execEndBurst s
  | .reserved d => Sys2Proof.Machine.execReserved d s

end Sys2Proof.Machine
end

