-- ==== Sys2Proof/Machine/Environment.lean ====
section
/-! DEFINITION. The environment's steps: ARRIVE and SPURIOUS (R115, R116), the sink-accept steps (R43), presentation
of words (R135, R72), and how the next step is chosen (R136). -/

namespace Sys2Proof.Machine

/-- ARRIVE(b) (R115). -/
def State.arrive (s : State) (b : Byte) : State := { s with prxQ := s.prxQ ++ [b], irqPend := true }

/-- SPURIOUS (R116). -/
def State.spurious (s : State) : State := { s with irqPend := true }

/-- ACCEPT_CON (R43); while CON_PEND is empty the step is not enabled and nothing changes. -/
def State.acceptCon (s : State) : State :=
  match s.conPend with
  | [] => s
  | b :: rest => { s with conOut := s.conOut ++ [b], conPend := rest }

/-- ACCEPT_PTX (R43); while PTX_PEND is empty the step is not enabled and nothing changes. -/
def State.acceptPtx (s : State) : State :=
  match s.ptxPend with
  | [] => s
  | b :: rest => { s with ptxOut := s.ptxOut ++ [b], ptxPend := rest }

/-- A word is presented to the unit that owns it, after the words presented before it (R21, R72). -/
def State.present (s : State) (q : ReqWord) : State :=
  match wordOwner q with
  | .he => { s with he := s.he.present q }
  | .fb => { s with fb := s.fb.present q }
  | .rt => { s with rt := s.rt.present q }

/-- The step taken next: the schedule's head, or a free choice when the schedule is empty (R136; log 1). -/
def State.nextChoice (s : State) : Choice :=
  match s.sched with
  | [] => Config.choice s.tick
  | c :: _ => c

/-- The previous step's response is gone: HE_OUT is no part of what a later step sees (R33; log 2). -/
def State.dropResponse (s : State) : State := { s with heOut := none }

/-- The state once the next step has been chosen. -/
def State.afterChoice (s : State) : State :=
  match s.sched with
  | [] => { s with tick := s.tick + 1 }
  | _ :: rest => { s with sched := rest }

end Sys2Proof.Machine
end

