-- ==== Sys2Proof/Machine/Agents.lean ====
section
/-! DEFINITION. One atomic step of each agent (R135): a unit attempting its next word, the sequencer (R118), the
environment; and when an agent's step is enabled (R136). -/

namespace Sys2Proof.Machine

/-- The word the sequencer chooses (R118): none after a fault, while RT holds, or while it waits for an interrupt. -/
def seqInstr (s : State) : Option Instr :=
  if s.halted || s.conHeld then none
  else match s.st with
    | .idle => if s.irqPend then some .beginBurst else none
    | .servicing =>
      match s.prxQ with
      | b :: _ => some (.rx b)
      | [] => some .endBurst

/-- The sequencer's step: it issues the chosen word and RT executes it in the same atomic step (R118). -/
def seqStep (s : State) : Host.Outcome State Fault Refusal :=
  match seqInstr s with
  | none => .next s
  | some i => exec i (s.issueRt (encode i))

/-- A unit's step: it executes the next unexecuted word of its list, if it has one (R21). -/
def runUnit (u : HwUnit) (s : State) : Host.Outcome State Fault Refusal :=
  match s.fetch u with
  | none => .next s
  | some q => exec (decode q) s

/-- The atomic step that a choice names (R135), on a state without a response. -/
def agentStep (c : Choice) (s : State) : Host.Outcome State Fault Refusal :=
  match c with
  | .arrive b => .next (s.arrive b)
  | .spurious => .next s.spurious
  | .acceptCon => .next s.acceptCon
  | .acceptPtx => .next s.acceptPtx
  | .present q => .next (s.present q)
  | .run u => runUnit u s
  | .seq => seqStep s

/-- One atomic step under a given choice: the previous response is dropped, then the agent steps. -/
def stepWith (c : Choice) (s : State) : Host.Outcome State Fault Refusal := agentStep c s.dropResponse

/-- The hold of R45: the word of `i` waits on its unit's pending buffer.  HEX never holds, and a reserved word faults
before the hold check (R137). -/
def wordHolds (i : Instr) (s : State) : Bool :=
  match i with
  | .hex _ => false
  | .frameI => s.ptxHeld
  | .frameP => s.ptxHeld
  | .frameN => s.ptxHeld
  | .frameS => s.ptxHeld
  | .frameV => s.ptxHeld
  | .frameQ => s.ptxHeld
  | .frameZ => s.ptxHeld
  | .frameUnrec _ => s.ptxHeld
  | .rx _ => s.conHeld
  | .beginBurst => s.conHeld
  | .endBurst => s.conHeld
  | .reserved _ => false

/-- A unit has a word it may execute now: no fault, a word waiting, no hold (R21, R45, R131). -/
def unitReady (u : HwUnit) (s : State) : Bool :=
  match s.fetch u with
  | none => false
  | some q => !s.halted && !wordHolds (decode q) s

/-- The step that a choice names is enabled (R136): the environment's inputs always are (R115, R116, R72), a sink with
a byte pending (R43), a unit with a word it may execute, the sequencer with a word to choose (R118). -/
def enabled (c : Choice) (s : State) : Bool :=
  match c with
  | .arrive _ => true
  | .spurious => true
  | .acceptCon => s.conHeld
  | .acceptPtx => s.ptxHeld
  | .present _ => true
  | .run u => unitReady u s
  | .seq => (seqInstr s).isSome

end Sys2Proof.Machine
end

