-- ==== Sys2Proof/Machine/Step.lean ====
section
/-! DEFINITION. The machine's step: the next choice of the interleaving (R136), then that agent's atomic step. -/

namespace Sys2Proof.Machine

/-- One step of the machine. -/
def step (s : State) : Host.Outcome State Fault Refusal := stepWith s.nextChoice s.afterChoice

/-- The state with a unit's request list replaced. -/
def State.setPort (s : State) (u : HwUnit) (p : Port) : State :=
  match u with
  | .he => { s with he := p }
  | .fb => { s with fb := p }
  | .rt => { s with rt := p }

/-- `s` with the instruction's word as the next unexecuted word of the unit that owns it, and that unit's step
scheduled next.  A number that is no 10-bit word is no instruction and is placed nowhere (log 13). -/
def State.withFetchWord (s : State) (nbits w : Nat) : State :=
  if tableNumber nbits w < 1024 then
    { s.setPort (wordOwner (BitVec.ofNat 10 (tableNumber nbits w)))
        ((s.port (wordOwner (BitVec.ofNat 10 (tableNumber nbits w)))).issue (BitVec.ofNat 10 (tableNumber nbits w)))
      with sched := .run (wordOwner (BitVec.ofNat 10 (tableNumber nbits w))) :: s.sched }
  else s

end Sys2Proof.Machine
end

