-- ==== Sys2Proof/Machine/Assembler.lean ====
section
/-! DEFINITION. The spec's assembly syntax: one word per line (R69), and the pseudo-operations with their expansions
(R70). -/

namespace Sys2Proof.Machine

/-- A line of the syntax of R69, or a pseudo-operation of R70. -/
inductive AsmLine where
  | hex (b : Byte)
  | frame (b : Byte)
  | rx (b : Byte)
  | beginBurst
  | endBurst
  | burst (bs : List Byte)
deriving DecidableEq, Repr

/-- `BURST b1, ..., bn` is `BEGIN; RX b1; ...; RX bn; END` (R70). -/
def burstWords (bs : List Byte) : List ReqWord := [0x300] ++ bs.map (mkWord 0b10) ++ [0x301]

/-- The words a line stands for (R69, R70). -/
def AsmLine.words : AsmLine → List ReqWord
  | .hex b => [mkWord 0b00 b]
  | .frame b => [mkWord 0b01 b]
  | .rx b => [mkWord 0b10 b]
  | .beginBurst => [0x300]
  | .endBurst => [0x301]
  | .burst bs => burstWords bs

/-- A word's listing: three hex digits (R69). -/
def listing (q : ReqWord) : List Byte :=
  [hexDigit ((opField q).setWidth 4), hexDigit (hiNibble (dField q)), hexDigit (loNibble (dField q))]

/-- A hex digit of a number in the text, in either case (log 27). -/
def asmDigit (c : Char) : Option Nibble :=
  if c.toNat < 128 then
    if 0x61 ≤ c.toNat ∧ c.toNat ≤ 0x66 then hexDigitValue (BitVec.ofNat 8 (c.toNat - 0x20))
    else hexDigitValue (BitVec.ofNat 8 c.toNat)
  else none

/-- A printable ASCII character, which quoted stands for its code (R69). -/
def printable (c : Char) : Bool := 0x20 ≤ c.toNat && c.toNat ≤ 0x7E

/-- The text after its leading spaces. -/
def afterSpaces (cs : List Char) : List Char := cs.dropWhile (· == ' ')

/-- Nothing but spaces and a comment is left of the line (R69). -/
def lineEnds (cs : List Char) : Bool :=
  match afterSpaces cs with
  | [] => true
  | c :: _ => c == ';'

/-- `<byte>`: a number `0x00`..`0xFF` or a quoted printable character (R69), with the text after it. -/
def takeByte : List Char → Option (Byte × List Char)
  | '0' :: 'x' :: a :: b :: rest =>
    match asmDigit a, asmDigit b with
    | some h, some l => some (h.setWidth 8 <<< 4 ||| l.setWidth 8, rest)
    | _, _ => none
  | '\'' :: c :: '\'' :: rest => if printable c then some (BitVec.ofNat 8 c.toNat, rest) else none
  | _ => none

/-- One `<byte>` and the end of the line. -/
def onlyByte (cs : List Char) : Option Byte :=
  match takeByte (afterSpaces cs) with
  | some (b, rest) => if lineEnds rest then some b else none
  | none => none

/-- The operands of BURST, separated by commas (R70); `fuel` bounds their number. -/
def burstBytes : Nat → List Char → Option (List Byte)
  | 0, _ => none
  | fuel + 1, cs =>
    match takeByte (afterSpaces cs) with
    | none => none
    | some (b, rest) =>
      if lineEnds rest then some [b]
      else match afterSpaces rest with
        | ',' :: more => (burstBytes fuel more).map (b :: ·)
        | _ => none

/-- A mnemonic's characters. -/
def mnemonicChar (c : Char) : Bool := (0x41 ≤ c.toNat && c.toNat ≤ 0x5A) || c == '_'

/-- The pseudo-operations FRAME_I to FRAME_Z: the command byte of each (R70, R63). -/
def frameAliases : List (List Char × Byte) :=
  [(['F', 'R', 'A', 'M', 'E', '_', 'I'], 0x69), (['F', 'R', 'A', 'M', 'E', '_', 'P'], 0x70),
   (['F', 'R', 'A', 'M', 'E', '_', 'N'], 0x6E), (['F', 'R', 'A', 'M', 'E', '_', 'S'], 0x73),
   (['F', 'R', 'A', 'M', 'E', '_', 'V'], 0x76), (['F', 'R', 'A', 'M', 'E', '_', 'Q'], 0x71),
   (['F', 'R', 'A', 'M', 'E', '_', 'Z'], 0x7A)]

/-- A line by its mnemonic and the text after it. -/
def parseOperation (name rest : List Char) : Option AsmLine :=
  if name = ['H', 'E', 'X'] then (onlyByte rest).map .hex
  else if name = ['F', 'R', 'A', 'M', 'E'] then (onlyByte rest).map .frame
  else if name = ['R', 'X'] then (onlyByte rest).map .rx
  else if name = ['B', 'E', 'G', 'I', 'N'] then (if lineEnds rest then some .beginBurst else none)
  else if name = ['E', 'N', 'D'] then (if lineEnds rest then some .endBurst else none)
  else if name = ['B', 'U', 'R', 'S', 'T'] then
    (if lineEnds rest then some (.burst []) else (burstBytes rest.length rest).map .burst)
  else match frameAliases.lookup name with
    | some d => if lineEnds rest then some (.frame d) else none
    | none => none

/-- The words of one line of text: none for text that is no line of the syntax, the empty list for a line with no
operation (R69, R70). -/
def assembleLine (cs : List Char) : Option (List ReqWord) :=
  if lineEnds cs then some []
  else (parseOperation ((afterSpaces cs).takeWhile mnemonicChar) ((afterSpaces cs).dropWhile mnemonicChar)).map
    AsmLine.words

/-- A program: its lines' words in order (R13, R69). -/
def assemble (lines : List (List Char)) : Option (List ReqWord) :=
  (lines.mapM assembleLine).map List.flatten

end Sys2Proof.Machine
end

