-- ==== Sys2Proof/Safety.lean ====
section
/-! DEFINITION. The terms claims are made in: runs under a given interleaving (R136), quiescence (R156), bursts and
their output (R117, R120), what each stream must hold (R46), the invariants, the fairness premises (R44, R157). -/

namespace Sys2Proof.Machine

/-- The state an outcome leads to; a step that stops leaves the state as it was (no step of this model stops). -/
def Outcome.stateOr (s : State) : Host.Outcome State Fault Refusal → State
  | .next t => t
  | .fault _ => s
  | .refused _ => s

/-- The state after the steps of `cs`, in order. -/
def runChoices : List Choice → State → State
  | [], s => s
  | c :: cs, s => runChoices cs (Outcome.stateOr s (stepWith c s))

/-- The step taken in one turn of an endless run.  Read from R136 (DEDUCED, log 25): only an enabled step of an agent is
ever taken, so a turn whose choice is not enabled goes to FB or to HE, if it has a word it may execute. -/
def turn (c : Choice) (s : State) : Choice :=
  if enabled c s then c
  else if unitReady .fb s then .run .fb
  else if unitReady .he s then .run .he
  else c

/-- The state after the first `n` turns of an endless run. -/
def trace (ch : Nat → Choice) (s : State) : Nat → State
  | 0 => s
  | n + 1 => Outcome.stateOr (trace ch s n) (stepWith (turn (ch n) (trace ch s n)) (trace ch s n))

/-- Quiescent (R156): the only states a run may end in. -/
abbrev Quiescent (s : State) : Prop :=
  s.fault = none ∧ s.st = .idle ∧ s.irqPend = false ∧ s.prxQ = [] ∧ s.conPend = [] ∧ s.ptxPend = [] ∧
    s.he.waiting = [] ∧ s.fb.waiting = []

/-- What one executed RT word does to the bursts so far (R117): BEGIN opens one, RX adds its byte to the last. -/
def burstStep (bursts : List (List Byte)) : Instr → List (List Byte)
  | .beginBurst => bursts ++ [[]]
  | .rx b => bursts.dropLast ++ [bursts.getLastD [] ++ [b]]
  | _ => bursts

/-- The bursts of a list of executed RT words (R117). -/
def burstsOf (ws : List ReqWord) : List (List Byte) := ws.foldl (fun bursts q => burstStep bursts (decode q)) []

/-- `burst_out` (R120): nothing for an empty burst, else the header and each byte's digit pair. -/
def burstOut (header : List Byte) : List Byte → List Byte
  | [] => []
  | b :: bs => header ++ (b :: bs).flatMap digitPair

/-- The command a FRAME word carries; none for the words of the other units (R63). -/
def wordCommand (q : ReqWord) : Option Command :=
  match decode q with
  | .frameI => some .i
  | .frameP => some .p
  | .frameN => some .n
  | .frameS => some .s
  | .frameV => some .v
  | .frameQ => some .q
  | .frameZ => some .z
  | .frameUnrec _ => some .unrecognized
  | _ => none

/-- What the FRAME words of a list emit, in order (R46, R92). -/
def framesOf (mode : ChecksumMode) (ws : List ReqWord) : List Byte :=
  ws.flatMap fun q => ((wordCommand q).map (frameBytes mode)).getD []

/-- The byte that arrives in one step, if any (R115). -/
def arrivedBytes : Choice → List Byte
  | .arrive b => [b]
  | _ => []

/-- The bytes that arrived in a list of steps, in arrival order (R115). -/
def arrivalsOf (cs : List Choice) : List Byte := cs.flatMap arrivedBytes

/-- The word presented to the unit `u` in one step, if any (R72). -/
def presentedWords (u : HwUnit) : Choice → List ReqWord
  | .present q => if wordOwner q = u then [q] else []
  | _ => []

/-- The words presented to a unit in a list of steps, in order of presentation (R21, R72). -/
def presentedTo (u : HwUnit) (cs : List Choice) : List ReqWord := cs.flatMap (presentedWords u)

/-- Only RT's own sequencer issues RT words: the step is no presentation of one (R72). -/
abbrev bySequencerOnly (c : Choice) : Prop := ∀ q, c = .present q → wordOwner q ≠ .rt

/-- Every word of a unit's request list is one that unit executes (R72). -/
abbrev PortsOwned (s : State) : Prop :=
  (∀ q ∈ s.he.done ++ s.he.waiting, wordOwner q = .he) ∧ (∀ q ∈ s.fb.done ++ s.fb.waiting, wordOwner q = .fb) ∧
    (∀ q ∈ s.rt.done ++ s.rt.waiting, wordOwner q = .rt)

/-- HDR is 0 outside a burst (R23), and a byte that waits outside a burst has been signalled (R115, R110, R112). -/
abbrev HandlerSound (s : State) : Prop :=
  (s.st = .idle → s.hdr = false) ∧ (s.st = .idle → s.prxQ ≠ [] → s.irqPend = true)

/-- The peripheral stream holds what the executed FRAME words emitted, in order (R46). -/
abbrev PtxLaw (s : State) : Prop := s.ptxOut ++ s.ptxPend = framesOf s.cfg.checksumMode s.fb.done

/-- The console stream holds the output of the executed bursts, in order (R46, R120), and ST and HDR say whether a
burst is open and whether it has taken a byte. -/
abbrev ConLaw (s : State) : Prop :=
  s.conOut ++ s.conPend = (burstsOf s.rt.done).flatMap (burstOut s.cfg.rxHeader) ∧
    (s.st = .servicing → burstsOf s.rt.done ≠ [] ∧ (s.hdr = true ↔ (burstsOf s.rt.done).getLastD [] ≠ [])) ∧
    (s.st = .idle → s.hdr = false)

/-- The rule that R93 to R99 share: the word `q` is the operation `i`; it holds while PTX_PEND is not empty, and
otherwise, with no fault, it emits the frame of the mode and changes nothing else but FB's position. -/
abbrev EmitsFrame (q : ReqWord) (i : Instr) (tableFrame computedFrame : List Byte) : Prop :=
  decode q = i ∧ encode i = q ∧
  ∀ s : State, (s.ptxPend ≠ [] → exec i s = .next s) ∧
    (s.fault = none → s.ptxPend = [] →
      (s.cfg.checksumMode = .table → exec i s = .next { s with ptxPend := tableFrame, fb := s.fb.retire q }) ∧
      (s.cfg.checksumMode = .computed → exec i s = .next { s with ptxPend := computedFrame, fb := s.fb.retire q }))

/-- SinkFair (R44): a sink that is offered a byte continuously eventually accepts it. -/
abbrev SinkFair (ch : Nat → Choice) (s : State) : Prop :=
  ∀ n, ((∀ m, n ≤ m → (trace ch s m).conPend ≠ []) → ∃ m, n ≤ m ∧ ch m = .acceptCon) ∧
    ((∀ m, n ≤ m → (trace ch s m).ptxPend ≠ []) → ∃ m, n ≤ m ∧ ch m = .acceptPtx)

/-- SeqFair (R157): the sequencer, continuously enabled, eventually steps. -/
abbrev SeqFair (ch : Nat → Choice) (s : State) : Prop :=
  ∀ n, (∀ m, n ≤ m → seqInstr (trace ch s m) ≠ none) → ∃ m, n ≤ m ∧ ch m = .seq

/-- From step `n` on nothing comes from outside: no arrival, no spurious interrupt, no word (R157). -/
abbrev InputsEndAt (ch : Nat → Choice) (n : Nat) : Prop :=
  ∀ m, n ≤ m → (∀ b, ch m ≠ .arrive b) ∧ ch m ≠ .spurious ∧ ∀ q, ch m ≠ .present q

/-- The sequencer drains `bs` and leaves: each word, then the console sink's acceptance of the word's bytes (R118,
R119); `header` is what the first word emits before its pair. -/
def drainSteps (header : List Byte) : List Byte → List Choice
  | [] => [.seq]
  | _ :: bs => (.seq :: List.replicate (header.length + 3) .acceptCon) ++ drainSteps [] bs

end Sys2Proof.Machine
end

