-- ==== Sys2Proof/Certificates/Slice0/Obligations.lean ====
section
/-! DEFINITION. The statements for the provers. -/

open Sys2Proof Sys2Proof.Machine

/-! ### Encoding -/

/-- Every well-formed operation is what its word decodes to, every operand at every value (R62 to R67). -/
def Obligations.DecodeOfEncode : Prop :=
  ∀ i : Instr, i.wellFormed = true → decode (encode i) = i

/-- R66, R67, R68: every 10-bit word selects exactly one operation, which is well formed and whose word it is, and it is
the operation of the first row of the table that matches, an exact row before the masked row of the same OP; the
reserved words are exactly 0x302 to 0x3FF, and executing one raises ReservedRequest.  (The table clause is the spec's own
inference: R67 and R68 are marked derived.) -/
def Obligations.EveryWordSelectsOneOperation : Prop :=
  ∀ q : ReqWord, (decode q).wellFormed = true ∧ encode (decode q) = q ∧ (decode q).owner = wordOwner q ∧
    decodeByTable q = some (decode q) ∧
    ((∃ d, decode q = .reserved d) ↔ 0x302 ≤ q.toNat) ∧
    (0x302 ≤ q.toNat → ∀ s : State, s.fault = none →
      exec (decode q) s = .next { s with fault := some (.reservedRequest (q.setWidth 8)) })

/-- A few words, written out from their encodings, decode to their operations. -/
def Obligations.SampleWordsDecode : Prop :=
  decode 0b0000011010 = .hex 0x1A ∧ decode 0b0101101001 = .frameI ∧ decode 0b0101110011 = .frameS ∧
    decode 0b0101111000 = .frameUnrec 0x78 ∧ decode 0b1001000001 = .rx 0x41 ∧ decode 0b1100000000 = .beginBurst ∧
    decode 0b1100000001 = .endBurst ∧ decode 0b1111111111 = .reserved 0xFF

/-- The model's choice (log 13): a 16-bit table word is read as a 10-bit word, and a number above 1023 is refused. -/
def Obligations.TableWordsOfTenBitsAreRead : Prop :=
  ∀ w : Nat, w < 65536 →
    decodeTableWord 16 w = if w < 1024 then some (decode (BitVec.ofNat 10 w)) else none

/-! ### The Hex Encoder -/

/-- R81: HEX answers its two digits, the high nibble's first, never holds, and leaves every state element as it was. -/
def Obligations.HexAnswersItsTwoDigits : Prop :=
  ∀ (v : Byte) (s : State), decode (v.setWidth 10) = .hex v ∧
    (s.fault = none → exec (.hex v) s =
      .next { s with
        heOut := some ((hexDigit (v.extractLsb' 4 4)).setWidth 16 <<< 8 ||| (hexDigit (v.extractLsb' 0 4)).setWidth 16)
        he := s.he.retire (v.setWidth 10) })

/-- R80, R82, R83: the digit map; the output alphabet; parsing an encoded byte gives it back; HEX is injective. -/
def Obligations.HexEncodingIsUppercaseAndInvertible : Prop :=
  (∀ n : Nibble, (n.toNat ≤ 9 → (hexDigit n).toNat = 0x30 + n.toNat) ∧
    (10 ≤ n.toNat → (hexDigit n).toNat = 0x41 + (n.toNat - 10) ∧ (hexDigit n).toNat = 0x37 + n.toNat)) ∧
  (∀ v : Byte, ∀ c ∈ [(encodeHexByte v).1, (encodeHexByte v).2],
    (0x30 ≤ c.toNat ∧ c.toNat ≤ 0x39) ∨ (0x41 ≤ c.toNat ∧ c.toNat ≤ 0x46)) ∧
  (∀ v : Byte, parseHexPair (encodeHexByte v).1 (encodeHexByte v).2 = some v) ∧
  (∀ v w : Byte, heResponse v = heResponse w → v = w)

/-! ### The Command Frame Builder -/

/-- R93 to R99: what each command's word emits in each mode, and that it changes nothing else.  (The COMPUTED bytes are
the spec's own inference, marked "derived: from rule R92".) -/
def Obligations.FrameWordsEmitTheirFrames : Prop :=
  EmitsFrame 0x169 .frameI [0x7E, 0xFF, 0x06, 0x09, 0x01, 0x00, 0x02, 0xEF]
      [0x7E, 0xFF, 0x06, 0x09, 0x01, 0x00, 0x02, 0xFE, 0xEF, 0xEF] ∧
    EmitsFrame 0x170 .frameP [0x7E, 0xFF, 0x06, 0x0D, 0x01, 0x00, 0x00, 0xEF]
      [0x7E, 0xFF, 0x06, 0x0D, 0x01, 0x00, 0x00, 0xFE, 0xED, 0xEF] ∧
    EmitsFrame 0x16E .frameN [0x7E, 0xFF, 0x06, 0x01, 0x01, 0x00, 0x00, 0xEF]
      [0x7E, 0xFF, 0x06, 0x01, 0x01, 0x00, 0x00, 0xFE, 0xF9, 0xEF] ∧
    EmitsFrame 0x173 .frameS [0x7E, 0xFF, 0x06, 0x0E, 0x01, 0x00, 0x00, 0xFE, 0xEC, 0xEF]
      [0x7E, 0xFF, 0x06, 0x0E, 0x01, 0x00, 0x00, 0xFE, 0xEC, 0xEF] ∧
    EmitsFrame 0x176 .frameV [0x7E, 0xFF, 0x06, 0x06, 0x01, 0x00, 0x1E, 0xEF]
      [0x7E, 0xFF, 0x06, 0x06, 0x01, 0x00, 0x1E, 0xFE, 0xD6, 0xEF] ∧
    EmitsFrame 0x171 .frameQ [0x7E, 0xFF, 0x06, 0x47, 0x00, 0x00, 0x00, 0xEF]
      [0x7E, 0xFF, 0x06, 0x47, 0x00, 0x00, 0x00, 0xFE, 0xB4, 0xEF] ∧
    EmitsFrame 0x17A .frameZ [0x05] [0x05]

/-- R100: any other command byte is unrecognized: it has no frame in either mode, its word holds like every FRAME word,
and when it runs nothing but FB's position changes. -/
def Obligations.UnrecognizedCommandEmitsNothing : Prop :=
  (∀ mode, buildFrame mode .unrecognized = none) ∧
  ∀ c : Byte, c ∉ [0x69, 0x70, 0x6E, 0x73, 0x76, 0x71, 0x7A] →
    decode (0x100 ||| c.setWidth 10) = .frameUnrec c ∧
    ∀ s : State, (s.ptxPend ≠ [] → exec (.frameUnrec c) s = .next s) ∧
      (s.fault = none → s.ptxPend = [] →
        exec (.frameUnrec c) s = .next { s with fb := s.fb.retire (0x100 ||| c.setWidth 10) })

/-- R92, R101: TABLE is the table; the COMPUTED frame of a 0x7E-framed command is made from the fields of its table frame
and its checksum; and the frame invariants hold in both modes.  (R101's COMPUTED clause is marked derived; where the
checksum stands is the spec's choice D7, log 11.) -/
def Obligations.FramesFollowTheTableAndTheChecksum : Prop :=
  (∀ c, buildFrame .table c = frameRom c) ∧ (∀ mode, buildFrame mode .z = some [0x05]) ∧
  (∀ mode, buildFrame mode .unrecognized = none) ∧
  ∀ c ∈ [Command.i, .p, .n, .s, .v, .q], ∃ t, frameRom c = some t ∧
    t.head? = some 0x7E ∧ t.getLast? = some 0xEF ∧ t[2]? = some 0x06 ∧ (t.length = 8 ∨ t.length = 10) ∧
    let sum := 0xFF + 0x06 + (t.getD 3 0).toNat + (t.getD 4 0).toNat + (t.getD 5 0).toNat + (t.getD 6 0).toNat
    let cs : BitVec 16 := BitVec.ofNat 16 ((0x10000 - sum) % 0x10000)
    sum ≤ 1530 ∧
    buildFrame .computed c =
      some [0x7E, 0xFF, 0x06, t.getD 3 0, t.getD 4 0, t.getD 5 0, t.getD 6 0, (cs >>> 8).setWidth 8, cs.setWidth 8, 0xEF] ∧
    ∃ f, buildFrame .computed c = some f ∧ f.length = 10 ∧
      ((((f.drop 1).take 6).map BitVec.toNat).sum + 256 * (f.getD 7 0).toNat + (f.getD 8 0).toNat) % 0x10000 = 0

/-! ### The Receive Transcoder -/

/-- R110: BEGIN holds, faults when a burst is open, and otherwise enters one, clearing IRQ_PEND whatever it was. -/
def Obligations.BeginEntersABurst : Prop :=
  decode 0x300 = .beginBurst ∧
  ∀ s : State, (s.conPend ≠ [] → exec .beginBurst s = .next s) ∧
    (s.fault = none → s.conPend = [] → s.st = .servicing →
      exec .beginBurst s = .next { s with fault := some .nestedBurst }) ∧
    (s.fault = none → s.conPend = [] → s.st = .idle →
      exec .beginBurst s =
        .next { s with irqPend := false, hdr := false, st := .servicing, rt := s.rt.retire 0x300 })

/-- R111: RX holds, faults outside a burst or when `b` is not the buffer's head, and otherwise takes `b` and emits the
header, if HDR is 0, then the digit pair. -/
def Obligations.RxTranscodesOneByte : Prop :=
  ∀ b : Byte, decode (0x200 ||| b.setWidth 10) = .rx b ∧
  ∀ s : State, (s.conPend ≠ [] → exec (.rx b) s = .next s) ∧
    (s.fault = none → s.conPend = [] → s.st = .idle →
      exec (.rx b) s = .next { s with fault := some (.rxOutsideBurst b) }) ∧
    (s.fault = none → s.conPend = [] → s.st = .servicing → s.prxQ.head? ≠ some b →
      exec (.rx b) s = .next { s with fault := some (.rxMismatch b) }) ∧
    (∀ rest, s.fault = none → s.conPend = [] → s.st = .servicing → s.prxQ = b :: rest →
      exec (.rx b) s =
        .next { s with
          prxQ := rest
          conPend := (if s.hdr then [] else s.cfg.rxHeader) ++
            [hexDigit (b.extractLsb' 4 4), hexDigit (b.extractLsb' 0 4), 0x20]
          hdr := true
          rt := s.rt.retire (0x200 ||| b.setWidth 10) })

/-- R112: END holds, faults outside a burst or while bytes are available, and otherwise leaves the burst, with IRQ_PEND
as it was. -/
def Obligations.EndLeavesTheBurst : Prop :=
  decode 0x301 = .endBurst ∧
  ∀ s : State, (s.conPend ≠ [] → exec .endBurst s = .next s) ∧
    (s.fault = none → s.conPend = [] → s.st = .idle →
      exec .endBurst s = .next { s with fault := some .endOutsideBurst }) ∧
    (s.fault = none → s.conPend = [] → s.st = .servicing → s.prxQ ≠ [] →
      exec .endBurst s = .next { s with fault := some .endUndrained }) ∧
    (s.fault = none → s.conPend = [] → s.st = .servicing → s.prxQ = [] →
      exec .endBurst s = .next { s with st := .idle, hdr := false, rt := s.rt.retire 0x301 })

/-- R113: a reserved CTL word raises ReservedRequest, whatever CON_PEND holds, and changes nothing else. -/
def Obligations.ReservedWordRaises : Prop :=
  ∀ d : Byte, (d ≠ 0x00 → d ≠ 0x01 → decode (0x300 ||| d.setWidth 10) = .reserved d) ∧
  ∀ s : State, s.fault = none → exec (.reserved d) s = .next { s with fault := some (.reservedRequest d) }

/-! ### Faults and holds -/

/-- R130: from a state without a fault, a word leaves exactly the fault of the table's row whose condition holds, the
hold and the earlier checks of R137 coming first; HEX and FRAME words leave none. -/
def Obligations.FaultsAreExactlyTheTable : Prop :=
  (∀ b : Byte, [Fault.reservedRequest b, .nestedBurst, .rxOutsideBurst b, .rxMismatch b, .endOutsideBurst,
      .endUndrained].map (fun f => (f.code, f.info)) =
    [(1, some b), (2, none), (3, some b), (4, some b), (5, none), (6, none)]) ∧
  ∀ (i : Instr) (s t : State) (f : Fault), s.fault = none → exec i s = .next t →
    (t.fault = some f ↔
      (∃ d, i = .reserved d ∧ f = .reservedRequest d) ∨
      (s.conPend = [] ∧
        ((i = .beginBurst ∧ s.st = .servicing ∧ f = .nestedBurst) ∨
         (∃ b, i = .rx b ∧ s.st = .idle ∧ f = .rxOutsideBurst b) ∨
         (∃ b, i = .rx b ∧ s.st = .servicing ∧ (s.prxQ = [] ∨ s.prxQ.head? ≠ some b) ∧ f = .rxMismatch b) ∨
         (i = .endBurst ∧ s.st = .idle ∧ f = .endOutsideBurst) ∨
         (i = .endBurst ∧ s.st = .servicing ∧ s.prxQ ≠ [] ∧ f = .endUndrained))))

/-- R131: a fault is precise and sticky: the faulting word changes FAULT alone; afterwards no unit and no sequencer
step changes anything and every step keeps the fault, while arrivals, spurious interrupts and sinks go on; a faulted
state is never final; a reset clears the fault. -/
def Obligations.FaultIsPreciseAndSticky : Prop :=
  (∀ (i : Instr) (s t : State), s.fault = none → exec i s = .next t → t.fault ≠ none → t = { s with fault := t.fault }) ∧
  ∀ s : State, s.fault ≠ none →
    (∀ i, exec i s = .next s) ∧
    (∀ u, stepWith (.run u) s = .next s.dropResponse) ∧ stepWith .seq s = .next s.dropResponse ∧
    (∀ b, stepWith (.arrive b) s = .next { s with prxQ := s.prxQ ++ [b], irqPend := true, heOut := none }) ∧
    stepWith .spurious s = .next { s with irqPend := true, heOut := none } ∧
    (∀ b rest, s.conPend = b :: rest →
      stepWith .acceptCon s = .next { s with conOut := s.conOut ++ [b], conPend := rest, heOut := none }) ∧
    (∀ b rest, s.ptxPend = b :: rest →
      stepWith .acceptPtx s = .next { s with ptxOut := s.ptxOut ++ [b], ptxPend := rest, heOut := none }) ∧
    (∀ c t, stepWith c s = .next t → t.fault = s.fault) ∧ ¬ Quiescent s ∧ s.resetBlock.fault = none

/-- R45: BEGIN, RX and END words wait while CON_PEND is not empty and FRAME words while PTX_PEND is not empty, changing
nothing; once the buffer is empty a FRAME word runs; HEX never waits. -/
def Obligations.HeldWordsWait : Prop :=
  ∀ (i : Instr) (s : State),
    (i.owner = .rt → (∀ d, i ≠ .reserved d) → s.conPend ≠ [] → exec i s = .next s) ∧
    (i.owner = .fb → s.ptxPend ≠ [] → exec i s = .next s) ∧
    (i.owner = .fb → s.fault = none → s.ptxPend = [] →
      ∃ t, exec i s = .next t ∧ t.fb.index = s.fb.index + 1) ∧
    (i.owner = .rt → s.fault = none → s.conPend = [] →
      ∃ t, exec i s = .next t ∧ (t.fault = none → t.rt.index = s.rt.index + 1)) ∧
    (i.owner = .he → s.fault = none → ∃ t, exec i s = .next t ∧ t.he.index = s.he.index + 1)

/-- R21: a word that is executed moves its own unit's position by one and records itself there; a word that waits, or
that is attempted after a fault, changes nothing; a word that faults moves no position (the model's reading, log 5); no
word moves another unit's position. -/
def Obligations.PositionsCountExecutedWords : Prop :=
  ∀ (i : Instr) (s t : State), exec i s = .next t →
    (∀ u, u ≠ i.owner → t.port u = s.port u) ∧
    (s.fault ≠ none ∨ wordHolds i s = true → t = s) ∧
    (t.fault ≠ s.fault → ∀ u, t.port u = s.port u) ∧
    (s.fault = none → wordHolds i s = false → t.fault = none →
      (t.port i.owner).index = (s.port i.owner).index + 1 ∧ (t.port i.owner).done = (s.port i.owner).done ++ [encode i] ∧
        (t.port i.owner).waiting = (s.port i.owner).waiting.tail)

/-- R122 (marked derived): RT's words write nothing of the peripheral channel, FB's nothing of the console channel or the
handler, HE's nothing but its answer. -/
def Obligations.ChannelsAreSeparate : Prop :=
  ∀ (i : Instr) (s t : State), exec i s = .next t →
    (i.owner = .rt → t = { s with
      st := t.st, hdr := t.hdr, irqPend := t.irqPend, fault := t.fault, prxQ := t.prxQ, conPend := t.conPend, rt := t.rt }) ∧
    (i.owner = .fb → t = { s with ptxPend := t.ptxPend, fb := t.fb }) ∧
    (i.owner = .he → t = { s with heOut := t.heOut, he := t.he })

/-! ### The agents' steps -/

/-- A step runs the decoded word: where the next choice is a unit that has a word waiting, the step is that word's
`exec`, on the state after the choice, with no response (the model's schedule and response field: log 1, log 2). -/
def Obligations.StepRunsTheDecodedWord : Prop :=
  ∀ (s : State) (u : HwUnit) (q : ReqWord) (rest : List ReqWord),
    s.nextChoice = .run u → (s.port u).waiting = q :: rest →
      step s = exec (decode q) { s.afterChoice with heOut := none }

/-- The model's own reading of a placed word (log 13, log 22): it is what the very next step runs, with the rest of the
state unchanged. -/
def Obligations.PlacedWordRunsNext : Prop :=
  ∀ (s : State) (w : Nat), w < 1024 →
    let q : ReqWord := BitVec.ofNat 10 w
    step (s.withFetchWord 16 w) =
      exec (decode q) { s.setPort (wordOwner q) ((s.port (wordOwner q)).issue q) with heOut := none }

/-- No step of the machine stops: it is total (R67, R131; that a fault is a next state is the model's reading, log 6). -/
def Obligations.EveryStepAnswersANextState : Prop :=
  ∀ s : State, ∃ t, step s = .next t

/-- R118: the sequencer's step in each of its cases; it never raises a fault (the rule marks this last clause derived). -/
def Obligations.SequencerChoosesItsWord : Prop :=
  ∀ s : State,
    (s.fault ≠ none ∨ s.conPend ≠ [] → stepWith .seq s = .next { s with heOut := none }) ∧
    (s.fault = none → s.conPend = [] →
      (s.st = .idle → s.irqPend = false → stepWith .seq s = .next { s with heOut := none }) ∧
      (s.st = .idle → s.irqPend = true → stepWith .seq s =
        .next { s with heOut := none, irqPend := false, hdr := false, st := .servicing,
                       rt := { s.rt with done := s.rt.done ++ [0x300] } }) ∧
      (∀ b rest, s.st = .servicing → s.prxQ = b :: rest → stepWith .seq s =
        .next { s with heOut := none, prxQ := rest, hdr := true,
                       conPend := (if s.hdr then [] else s.cfg.rxHeader) ++ digitPair b,
                       rt := { s.rt with done := s.rt.done ++ [0x200 ||| b.setWidth 10] } }) ∧
      (s.st = .servicing → s.prxQ = [] → stepWith .seq s =
        .next { s with heOut := none, st := .idle, hdr := false,
                       rt := { s.rt with done := s.rt.done ++ [0x301] } })) ∧
    (∀ t, stepWith .seq s = .next t → t.fault = s.fault)

/-- R43, R115, R116: an arrival queues its byte and a spurious interrupt queues none, in any state, and both set
IRQ_PEND; a sink-accept step moves the pending buffer's head to the end of the stream, and while the buffer is empty it
is not enabled. -/
def Obligations.EnvironmentStepsQueueAndAccept : Prop :=
  ∀ s : State,
    (∀ b, stepWith (.arrive b) s = .next { s with prxQ := s.prxQ ++ [b], irqPend := true, heOut := none }) ∧
    stepWith .spurious s = .next { s with irqPend := true, heOut := none } ∧
    (∀ b rest, s.conPend = b :: rest →
      stepWith .acceptCon s = .next { s with conOut := s.conOut ++ [b], conPend := rest, heOut := none }) ∧
    (s.conPend = [] → stepWith .acceptCon s = .next { s with heOut := none }) ∧
    (∀ b rest, s.ptxPend = b :: rest →
      stepWith .acceptPtx s = .next { s with ptxOut := s.ptxOut ++ [b], ptxPend := rest, heOut := none }) ∧
    (s.ptxPend = [] → stepWith .acceptPtx s = .next { s with heOut := none })

/-- R33: no step sees HE_OUT, and a step leaves one only where it executed a HEX word, whose answer it is. -/
def Obligations.HeOutIsTheHexStepsAnswer : Prop :=
  (∀ (s : State) (x : Option (BitVec 16)), step { s with heOut := x } = step s) ∧
  ∀ (s t : State) (r : BitVec 16), step s = .next t → t.heOut = some r →
    ∃ u q rest v, s.nextChoice = .run u ∧ (s.port u).waiting = q :: rest ∧ decode q = .hex v ∧
      r = (hexDigit (v.extractLsb' 4 4)).setWidth 16 <<< 8 ||| (hexDigit (v.extractLsb' 0 4)).setWidth 16

/-- R32, R28: no step writes the configuration; the observation streams only grow, and only by their own sink's
step. -/
def Obligations.StreamsGrowOnlyBySinks : Prop :=
  ∀ (s t : State), step s = .next t →
    t.cfg = s.cfg ∧ s.conOut <+: t.conOut ∧ s.ptxOut <+: t.ptxOut ∧
    (s.nextChoice ≠ .acceptCon → t.conOut = s.conOut) ∧ (s.nextChoice ≠ .acceptPtx → t.ptxOut = s.ptxOut)

/-- R17: no rule reads IRQ_NESTING: a step does the same whatever it is. -/
def Obligations.IrqNestingIsUnread : Prop :=
  ∀ (c : Choice) (s t : State) (b : Bool), stepWith c s = .next t →
    stepWith c { s with cfg := { s.cfg with irqNesting := b } } =
      .next { t with cfg := { t.cfg with irqNesting := b } }

/-- R136, with the guards of R43, R45, R118 and R131: a step of a unit, of the sequencer or of a sink changes something
beside the response exactly when it is enabled, and a unit's and the sequencer's enabled step executes one word or, for a
unit, raises its fault. -/
def Obligations.OnlyEnabledStepsChangeTheBlock : Prop :=
  (∀ (s : State), ∀ c ∈ [Choice.acceptCon, .acceptPtx, .seq, .run .he, .run .fb, .run .rt],
    (enabled c s = false ↔ stepWith c s = .next s.dropResponse)) ∧
  (∀ (s t : State), enabled .seq s = true → stepWith .seq s = .next t → t.rt.index = s.rt.index + 1) ∧
  ∀ (s t : State) (u : HwUnit), PortsOwned s → enabled (.run u) s = true → stepWith (.run u) s = .next t →
    t.fault ≠ none ∨ (t.port u).index = (s.port u).index + 1

/-- R136: the steps of different channels commute, so their order changes neither stream: a step of the receive side or
of the console sink that raises no fault, with FB's step, the peripheral sink's and the presentation of a HEX or FRAME
word; and HE's step with all of these but a presentation, the response aside. -/
def Obligations.StepsOfDifferentChannelsCommute : Prop :=
  ∀ (s : State) (b : Byte) (q : ReqWord), PortsOwned s → wordOwner q ≠ .rt →
    (∀ c ∈ [Choice.arrive b, .spurious, .acceptCon, .seq, .run .rt], (runChoices [c] s).fault = s.fault →
      (∀ d ∈ [Choice.run .fb, .acceptPtx, .present q], runChoices [c, d] s = runChoices [d, c] s) ∧
      (runChoices [c, .run .he] s).dropResponse = (runChoices [.run .he, c] s).dropResponse) ∧
    (∀ d ∈ [Choice.run .fb, .acceptPtx],
      (runChoices [d, .run .he] s).dropResponse = (runChoices [.run .he, d] s).dropResponse)

/-! ### Reset and invariants -/

/-- R150 (the spec's own choice of values, D10; log 8): every element after reset, for any parameters, and after a
reset of a block in any state, which keeps the parameters. -/
def Obligations.ResetLeavesTheResetValues : Prop :=
  ∀ (cfg : BlockConfig) (s : State), ∀ r ∈ [State.reset, State.resetWith cfg, s.resetBlock],
    r.st = .idle ∧ r.hdr = false ∧ r.irqPend = false ∧ r.fault = none ∧ r.prxQ = [] ∧ r.conPend = [] ∧
      r.ptxPend = [] ∧ r.conOut = [] ∧ r.ptxOut = [] ∧ s.resetBlock.cfg = s.cfg

/-- The invariants hold after reset, for any parameters, and the state is quiescent. -/
def Obligations.ResetMeetsTheInvariants : Prop :=
  ∀ (cfg : BlockConfig), ∀ r ∈ [State.reset, State.resetWith cfg],
    HandlerSound r ∧ PortsOwned r ∧ PtxLaw r ∧ ConLaw r ∧ Quiescent r

/-- R23's invariant (marked derived) and the signalling of waiting bytes (the model's inference from R115, R110, R112),
kept by every step from every state that has them. -/
def Obligations.HandlerSoundIsKept : Prop :=
  ∀ s t : State, HandlerSound s → step s = .next t → HandlerSound t

/-- Every unit's list holds only its own words, kept by every step. -/
def Obligations.PortsOwnedIsKept : Prop :=
  ∀ s t : State, PortsOwned s → step s = .next t → PortsOwned t

/-- R46 (marked derived) for the peripheral channel, kept by every step. -/
def Obligations.PtxLawIsKept : Prop :=
  ∀ s t : State, PtxLaw s → step s = .next t → PtxLaw t

/-- R46 and R120 (both marked derived) for the console channel, kept by every step. -/
def Obligations.ConLawIsKept : Prop :=
  ∀ s t : State, ConLaw s → step s = .next t → ConLaw t

/-- R121's account of the received bytes (marked derived), kept by every step from every state with the console law: the
bursts' bytes followed by the bytes still queued grow by exactly the byte that arrives. -/
def Obligations.EveryByteIsAccountedFor : Prop :=
  ∀ s t : State, ConLaw s → step s = .next t →
    ConLaw t ∧ (burstsOf t.rt.done).flatten ++ t.prxQ =
      (burstsOf s.rt.done).flatten ++ s.prxQ ++ arrivedBytes s.nextChoice

/-- R21 and R46 (marked derived), kept by every step: HE's and FB's words, executed and waiting, grow by exactly the word
presented to them, so they are executed in order of presentation, and the peripheral stream stays their frames. -/
def Obligations.EveryPresentedWordIsAccountedFor : Prop :=
  ∀ s t : State, PortsOwned s → PtxLaw s → step s = .next t →
    PortsOwned t ∧ PtxLaw t ∧
      t.fb.done ++ t.fb.waiting = s.fb.done ++ s.fb.waiting ++ presentedWords .fb s.nextChoice ∧
      t.he.done ++ t.he.waiting = s.he.done ++ s.he.waiting ++ presentedWords .he s.nextChoice

/-! ### Laws over runs, for every interleaving -/

/-- R121 and R46 (both marked derived): in every run from reset, for all parameters, the console stream and its
pending bytes are the bursts' output, and the bursts' bytes with those still queued are the arrivals in order; when
the block is quiescent nothing is pending or queued. -/
def Obligations.ConsoleStreamIsTheBurstsOutput : Prop :=
  ∀ (cfg : BlockConfig) (cs : List Choice),
    let s := runChoices cs (State.resetWith cfg)
    s.conOut ++ s.conPend = (burstsOf s.rt.done).flatMap (burstOut cfg.rxHeader) ∧
    (burstsOf s.rt.done).flatten ++ s.prxQ = arrivalsOf cs ∧
    (Quiescent s → s.conOut = (burstsOf s.rt.done).flatMap (burstOut cfg.rxHeader) ∧
      (burstsOf s.rt.done).flatten = arrivalsOf cs)

/-- R121 (marked derived), R154: every partition of a byte sequence into bursts is admitted, empty bursts among them, in
a run in which the sequencer alone issues RT's words. -/
def Obligations.EveryBurstPartitionIsAdmitted : Prop :=
  ∀ (cfg : BlockConfig) (bursts : List (List Byte)), ∃ cs : List Choice,
    (∀ c ∈ cs, bySequencerOnly c) ∧ Quiescent (runChoices cs (State.resetWith cfg)) ∧
    burstsOf (runChoices cs (State.resetWith cfg)).rt.done = bursts ∧ arrivalsOf cs = bursts.flatten

/-- R46 (marked derived) and R21 for the command port: in every run from reset FB and HE execute the presented words
in order of presentation, and the peripheral stream is the executed FRAME words' frames; when the block is quiescent,
all of them. -/
def Obligations.PeripheralStreamIsTheFrames : Prop :=
  ∀ (cfg : BlockConfig) (cs : List Choice),
    let s := runChoices cs (State.resetWith cfg)
    s.fb.done ++ s.fb.waiting = presentedTo .fb cs ∧ s.he.done ++ s.he.waiting = presentedTo .he cs ∧
    s.ptxOut ++ s.ptxPend = framesOf cfg.checksumMode s.fb.done ∧
    (Quiescent s → s.ptxOut = framesOf cfg.checksumMode (presentedTo .fb cs))

/-- R119: a burst holding the bytes `bs` takes exactly one RX word for each and one END, waiting only on the console
sink, and returns to idle; its output is R120's (a law the spec marks as derived). -/
def Obligations.BurstDrainsEveryByte : Prop :=
  ∀ s : State, s.fault = none → s.st = .servicing → s.conPend = [] →
    runChoices (drainSteps s.pendingHeader s.prxQ) s =
      { s with
        st := .idle, hdr := false, prxQ := [], heOut := none
        conOut := s.conOut ++ (if s.prxQ = [] then [] else s.pendingHeader ++ s.prxQ.flatMap digitPair)
        rt := { s.rt with done := s.rt.done ++ s.prxQ.map (fun b => 0x200 ||| b.setWidth 10) ++ [0x301] } }

/-- R158 (marked derived): a byte that arrives after BEGIN and before the emptiness check is drained in the burst and
leaves IRQ_PEND at 1; the next burst is empty and emits nothing. -/
def Obligations.LateArrivalCausesAnEmptyBurst : Prop :=
  ∀ (s : State) (b : Byte), s.fault = none → s.st = .servicing → s.conPend = [] → s.prxQ = [] →
    let afterBurst := runChoices (.arrive b :: drainSteps s.pendingHeader [b]) s
    afterBurst.st = .idle ∧ afterBurst.irqPend = true ∧ afterBurst.prxQ = [] ∧ afterBurst.conPend = [] ∧
    afterBurst.conOut = s.conOut ++ s.pendingHeader ++ digitPair b ∧
    runChoices [.seq, .seq] afterBurst =
      { afterBurst with irqPend := false, rt := { afterBurst.rt with done := afterBurst.rt.done ++ [0x300, 0x301] } }

/-- R139: END leaves a pending interrupt pending, and the sequencer's next step is BEGIN again. -/
def Obligations.PendingInterruptIsTakenAfterEnd : Prop :=
  ∀ s : State, s.fault = none → s.st = .servicing → s.conPend = [] → s.prxQ = [] → s.irqPend = true →
    runChoices [.seq] s =
      { s with st := .idle, hdr := false, heOut := none, rt := { s.rt with done := s.rt.done ++ [0x301] } } ∧
    runChoices [.seq, .seq] s =
      { s with irqPend := false, hdr := false, heOut := none,
               rt := { s.rt with done := s.rt.done ++ [0x301, 0x300] } }

/-- R44: a sink that accepts no more leaves its unit waiting for ever: no step lets it past the hold. -/
def Obligations.DeadSinkHoldsItsUnit : Prop :=
  ∀ (cs : List Choice) (s : State),
    (Choice.acceptCon ∉ cs → s.conPend ≠ [] →
      let t := runChoices cs s
      t.st = s.st ∧ t.hdr = s.hdr ∧ t.conPend = s.conPend ∧ t.conOut = s.conOut ∧ t.rt.done = s.rt.done ∧ s.prxQ <+: t.prxQ) ∧
    (Choice.acceptPtx ∉ cs → s.ptxPend ≠ [] →
      let t := runChoices cs s
      t.ptxPend = s.ptxPend ∧ t.ptxOut = s.ptxOut ∧ t.fb.done = s.fb.done)

/-- R156, R141: in a quiescent state with no word of a driver waiting, only an arrival, a spurious interrupt or a
presented word changes anything. -/
def Obligations.QuiescentBlockStaysStill : Prop :=
  ∀ (s : State) (c : Choice), Quiescent s → s.rt.waiting = [] → (∀ b, c ≠ .arrive b) → c ≠ .spurious →
    (∀ q, c ≠ .present q) → stepWith c s = .next { s with heOut := none }

/-- R157 (marked derived): when the inputs end, every run that is SinkFair and SeqFair reaches a quiescent state, from
every state that meets the invariants which reset meets and every step keeps, with no fault and no RT word of a driver.
What a run is is the model's reading of R136 (DEDUCED, log 25): `turn` hands a turn whose choice is not enabled to FB or
HE, if it has a word it may execute, and the statement rests on that. -/
def Obligations.FairRunsReachQuiescence : Prop :=
  ∀ (ch : Nat → Choice) (s : State) (n : Nat), s.fault = none → HandlerSound s → PortsOwned s → s.rt.waiting = [] →
    (∀ m, bySequencerOnly (ch m)) → InputsEndAt ch n → SinkFair ch s → SeqFair ch s →
    ∃ m, n ≤ m ∧ Quiescent (trace ch s m)

/-- R157 (marked derived): after any steps from reset, for any parameters, when the inputs end every run that is SinkFair
and SeqFair reaches a quiescent state, where RT's words are the sequencer's alone (R72).  What a run is is the model's
reading of R136 (DEDUCED, log 25): `turn` hands a turn whose choice is not enabled to FB or HE, if it has a word it may
execute, and the statement rests on that; no invariant is assumed. -/
def Obligations.RunsFromResetReachQuiescence : Prop :=
  ∀ (cfg : BlockConfig) (cs : List Choice) (ch : Nat → Choice) (n : Nat),
    (∀ c ∈ cs, bySequencerOnly c) → (∀ m, bySequencerOnly (ch m)) → InputsEndAt ch n →
    let s := runChoices cs (State.resetWith cfg)
    SinkFair ch s → SeqFair ch s → ∃ m, n ≤ m ∧ Quiescent (trace ch s m)

/-! ### Assembly syntax -/

/-- R69, R70: the words of every line and of BURST; how a byte is written; the texts of the lines without an operand, of
BURST without operands, of FRAME with each token, and of the seven pseudo-operations that stand for it; a listing. -/
def Obligations.AssemblyLinesStandForTheirWords : Prop :=
  (∀ b : Byte, (AsmLine.hex b).words = [b.setWidth 10] ∧ (AsmLine.frame b).words = [0x100 ||| b.setWidth 10] ∧
    (AsmLine.rx b).words = [0x200 ||| b.setWidth 10]) ∧
  AsmLine.beginBurst.words = [0x300] ∧ AsmLine.endBurst.words = [0x301] ∧
  (∀ bs : List Byte, (AsmLine.burst bs).words = [0x300] ++ bs.map (fun b => 0x200 ||| b.setWidth 10) ++ [0x301] ∧
    (AsmLine.burst bs).words.map decode = [.beginBurst] ++ bs.map .rx ++ [.endBurst]) ∧
  (∀ (b : Byte) (rest : List Char), takeByte
      (['0', 'x', Char.ofNat (hexDigit (b.extractLsb' 4 4)).toNat, Char.ofNat (hexDigit (b.extractLsb' 0 4)).toNat] ++ rest) =
    some (b, rest)) ∧
  (∀ (c : Char) (rest : List Char), 0x20 ≤ c.toNat → c.toNat ≤ 0x7E →
    takeByte (['\'', c, '\''] ++ rest) = some (BitVec.ofNat 8 c.toNat, rest)) ∧
  assembleLine ['B', 'E', 'G', 'I', 'N'] = some [0x300] ∧ assembleLine ['E', 'N', 'D'] = some [0x301] ∧
  assembleLine ['B', 'U', 'R', 'S', 'T'] = some [0x300, 0x301] ∧
  (∀ p ∈ [('I', 'i', 0x169), ('P', 'p', 0x170), ('N', 'n', 0x16E), ('S', 's', 0x173), ('V', 'v', 0x176), ('Q', 'q', 0x171),
      ('Z', 'z', 0x17A)],
    assembleLine ['F', 'R', 'A', 'M', 'E', '_', p.1] = some [p.2.2] ∧
      assembleLine ['F', 'R', 'A', 'M', 'E', ' ', '\'', p.2.1, '\''] = some [p.2.2]) ∧
  listing 0x169 = [0x31, 0x36, 0x39]
end

