-- ==== Sys2Proof/Laws/State.lean ====
section
/-! SUPPORT. One lemma per field per update of the state, each true by unfolding, so that no later proof unfolds a
record update. -/

namespace Sys2Proof.Machine

@[simp] theorem Port.present_done (p : Port) (q : ReqWord) : (p.present q).done = p.done := rfl
@[simp] theorem Port.present_waiting (p : Port) (q : ReqWord) : (p.present q).waiting = p.waiting ++ [q] := rfl
@[simp] theorem Port.issue_done (p : Port) (q : ReqWord) : (p.issue q).done = p.done := rfl
@[simp] theorem Port.issue_waiting (p : Port) (q : ReqWord) : (p.issue q).waiting = q :: p.waiting := rfl
@[simp] theorem Port.retire_done (p : Port) (q : ReqWord) : (p.retire q).done = p.done ++ [q] := rfl
@[simp] theorem Port.retire_waiting (p : Port) (q : ReqWord) : (p.retire q).waiting = p.waiting.tail := rfl

@[simp] theorem State.emitCon_st (s : State) (l : List Byte) : (s.emitCon l).st = s.st := rfl
@[simp] theorem State.emitCon_hdr (s : State) (l : List Byte) : (s.emitCon l).hdr = s.hdr := rfl
@[simp] theorem State.emitCon_irqPend (s : State) (l : List Byte) : (s.emitCon l).irqPend = s.irqPend := rfl
@[simp] theorem State.emitCon_fault (s : State) (l : List Byte) : (s.emitCon l).fault = s.fault := rfl
@[simp] theorem State.emitCon_prxQ (s : State) (l : List Byte) : (s.emitCon l).prxQ = s.prxQ := rfl
@[simp] theorem State.emitCon_conPend (s : State) (l : List Byte) : (s.emitCon l).conPend = s.conPend ++ l := rfl
@[simp] theorem State.emitCon_ptxPend (s : State) (l : List Byte) : (s.emitCon l).ptxPend = s.ptxPend := rfl
@[simp] theorem State.emitCon_conOut (s : State) (l : List Byte) : (s.emitCon l).conOut = s.conOut := rfl
@[simp] theorem State.emitCon_ptxOut (s : State) (l : List Byte) : (s.emitCon l).ptxOut = s.ptxOut := rfl
@[simp] theorem State.emitCon_he (s : State) (l : List Byte) : (s.emitCon l).he = s.he := rfl
@[simp] theorem State.emitCon_fb (s : State) (l : List Byte) : (s.emitCon l).fb = s.fb := rfl
@[simp] theorem State.emitCon_rt (s : State) (l : List Byte) : (s.emitCon l).rt = s.rt := rfl
@[simp] theorem State.emitCon_heOut (s : State) (l : List Byte) : (s.emitCon l).heOut = s.heOut := rfl
@[simp] theorem State.emitCon_cfg (s : State) (l : List Byte) : (s.emitCon l).cfg = s.cfg := rfl
@[simp] theorem State.emitCon_sched (s : State) (l : List Byte) : (s.emitCon l).sched = s.sched := rfl
@[simp] theorem State.emitCon_tick (s : State) (l : List Byte) : (s.emitCon l).tick = s.tick := rfl

@[simp] theorem State.emitPtx_st (s : State) (l : List Byte) : (s.emitPtx l).st = s.st := rfl
@[simp] theorem State.emitPtx_hdr (s : State) (l : List Byte) : (s.emitPtx l).hdr = s.hdr := rfl
@[simp] theorem State.emitPtx_irqPend (s : State) (l : List Byte) : (s.emitPtx l).irqPend = s.irqPend := rfl
@[simp] theorem State.emitPtx_fault (s : State) (l : List Byte) : (s.emitPtx l).fault = s.fault := rfl
@[simp] theorem State.emitPtx_prxQ (s : State) (l : List Byte) : (s.emitPtx l).prxQ = s.prxQ := rfl
@[simp] theorem State.emitPtx_conPend (s : State) (l : List Byte) : (s.emitPtx l).conPend = s.conPend := rfl
@[simp] theorem State.emitPtx_ptxPend (s : State) (l : List Byte) : (s.emitPtx l).ptxPend = s.ptxPend ++ l := rfl
@[simp] theorem State.emitPtx_conOut (s : State) (l : List Byte) : (s.emitPtx l).conOut = s.conOut := rfl
@[simp] theorem State.emitPtx_ptxOut (s : State) (l : List Byte) : (s.emitPtx l).ptxOut = s.ptxOut := rfl
@[simp] theorem State.emitPtx_he (s : State) (l : List Byte) : (s.emitPtx l).he = s.he := rfl
@[simp] theorem State.emitPtx_fb (s : State) (l : List Byte) : (s.emitPtx l).fb = s.fb := rfl
@[simp] theorem State.emitPtx_rt (s : State) (l : List Byte) : (s.emitPtx l).rt = s.rt := rfl
@[simp] theorem State.emitPtx_heOut (s : State) (l : List Byte) : (s.emitPtx l).heOut = s.heOut := rfl
@[simp] theorem State.emitPtx_cfg (s : State) (l : List Byte) : (s.emitPtx l).cfg = s.cfg := rfl
@[simp] theorem State.emitPtx_sched (s : State) (l : List Byte) : (s.emitPtx l).sched = s.sched := rfl
@[simp] theorem State.emitPtx_tick (s : State) (l : List Byte) : (s.emitPtx l).tick = s.tick := rfl

@[simp] theorem State.takePrx_st (s : State) : (s.takePrx).st = s.st := rfl
@[simp] theorem State.takePrx_hdr (s : State) : (s.takePrx).hdr = s.hdr := rfl
@[simp] theorem State.takePrx_irqPend (s : State) : (s.takePrx).irqPend = s.irqPend := rfl
@[simp] theorem State.takePrx_fault (s : State) : (s.takePrx).fault = s.fault := rfl
@[simp] theorem State.takePrx_prxQ (s : State) : (s.takePrx).prxQ = s.prxQ.tail := rfl
@[simp] theorem State.takePrx_conPend (s : State) : (s.takePrx).conPend = s.conPend := rfl
@[simp] theorem State.takePrx_ptxPend (s : State) : (s.takePrx).ptxPend = s.ptxPend := rfl
@[simp] theorem State.takePrx_conOut (s : State) : (s.takePrx).conOut = s.conOut := rfl
@[simp] theorem State.takePrx_ptxOut (s : State) : (s.takePrx).ptxOut = s.ptxOut := rfl
@[simp] theorem State.takePrx_he (s : State) : (s.takePrx).he = s.he := rfl
@[simp] theorem State.takePrx_fb (s : State) : (s.takePrx).fb = s.fb := rfl
@[simp] theorem State.takePrx_rt (s : State) : (s.takePrx).rt = s.rt := rfl
@[simp] theorem State.takePrx_heOut (s : State) : (s.takePrx).heOut = s.heOut := rfl
@[simp] theorem State.takePrx_cfg (s : State) : (s.takePrx).cfg = s.cfg := rfl
@[simp] theorem State.takePrx_sched (s : State) : (s.takePrx).sched = s.sched := rfl
@[simp] theorem State.takePrx_tick (s : State) : (s.takePrx).tick = s.tick := rfl

@[simp] theorem State.raise_st (s : State) (f : Fault) : (s.raise f).st = s.st := rfl
@[simp] theorem State.raise_hdr (s : State) (f : Fault) : (s.raise f).hdr = s.hdr := rfl
@[simp] theorem State.raise_irqPend (s : State) (f : Fault) : (s.raise f).irqPend = s.irqPend := rfl
@[simp] theorem State.raise_fault (s : State) (f : Fault) : (s.raise f).fault = some f := rfl
@[simp] theorem State.raise_prxQ (s : State) (f : Fault) : (s.raise f).prxQ = s.prxQ := rfl
@[simp] theorem State.raise_conPend (s : State) (f : Fault) : (s.raise f).conPend = s.conPend := rfl
@[simp] theorem State.raise_ptxPend (s : State) (f : Fault) : (s.raise f).ptxPend = s.ptxPend := rfl
@[simp] theorem State.raise_conOut (s : State) (f : Fault) : (s.raise f).conOut = s.conOut := rfl
@[simp] theorem State.raise_ptxOut (s : State) (f : Fault) : (s.raise f).ptxOut = s.ptxOut := rfl
@[simp] theorem State.raise_he (s : State) (f : Fault) : (s.raise f).he = s.he := rfl
@[simp] theorem State.raise_fb (s : State) (f : Fault) : (s.raise f).fb = s.fb := rfl
@[simp] theorem State.raise_rt (s : State) (f : Fault) : (s.raise f).rt = s.rt := rfl
@[simp] theorem State.raise_heOut (s : State) (f : Fault) : (s.raise f).heOut = s.heOut := rfl
@[simp] theorem State.raise_cfg (s : State) (f : Fault) : (s.raise f).cfg = s.cfg := rfl
@[simp] theorem State.raise_sched (s : State) (f : Fault) : (s.raise f).sched = s.sched := rfl
@[simp] theorem State.raise_tick (s : State) (f : Fault) : (s.raise f).tick = s.tick := rfl

@[simp] theorem State.respond_st (s : State) (r : BitVec 16) : (s.respond r).st = s.st := rfl
@[simp] theorem State.respond_hdr (s : State) (r : BitVec 16) : (s.respond r).hdr = s.hdr := rfl
@[simp] theorem State.respond_irqPend (s : State) (r : BitVec 16) : (s.respond r).irqPend = s.irqPend := rfl
@[simp] theorem State.respond_fault (s : State) (r : BitVec 16) : (s.respond r).fault = s.fault := rfl
@[simp] theorem State.respond_prxQ (s : State) (r : BitVec 16) : (s.respond r).prxQ = s.prxQ := rfl
@[simp] theorem State.respond_conPend (s : State) (r : BitVec 16) : (s.respond r).conPend = s.conPend := rfl
@[simp] theorem State.respond_ptxPend (s : State) (r : BitVec 16) : (s.respond r).ptxPend = s.ptxPend := rfl
@[simp] theorem State.respond_conOut (s : State) (r : BitVec 16) : (s.respond r).conOut = s.conOut := rfl
@[simp] theorem State.respond_ptxOut (s : State) (r : BitVec 16) : (s.respond r).ptxOut = s.ptxOut := rfl
@[simp] theorem State.respond_he (s : State) (r : BitVec 16) : (s.respond r).he = s.he := rfl
@[simp] theorem State.respond_fb (s : State) (r : BitVec 16) : (s.respond r).fb = s.fb := rfl
@[simp] theorem State.respond_rt (s : State) (r : BitVec 16) : (s.respond r).rt = s.rt := rfl
@[simp] theorem State.respond_heOut (s : State) (r : BitVec 16) : (s.respond r).heOut = some r := rfl
@[simp] theorem State.respond_cfg (s : State) (r : BitVec 16) : (s.respond r).cfg = s.cfg := rfl
@[simp] theorem State.respond_sched (s : State) (r : BitVec 16) : (s.respond r).sched = s.sched := rfl
@[simp] theorem State.respond_tick (s : State) (r : BitVec 16) : (s.respond r).tick = s.tick := rfl

@[simp] theorem State.retireHe_st (s : State) (q : ReqWord) : (s.retireHe q).st = s.st := rfl
@[simp] theorem State.retireHe_hdr (s : State) (q : ReqWord) : (s.retireHe q).hdr = s.hdr := rfl
@[simp] theorem State.retireHe_irqPend (s : State) (q : ReqWord) : (s.retireHe q).irqPend = s.irqPend := rfl
@[simp] theorem State.retireHe_fault (s : State) (q : ReqWord) : (s.retireHe q).fault = s.fault := rfl
@[simp] theorem State.retireHe_prxQ (s : State) (q : ReqWord) : (s.retireHe q).prxQ = s.prxQ := rfl
@[simp] theorem State.retireHe_conPend (s : State) (q : ReqWord) : (s.retireHe q).conPend = s.conPend := rfl
@[simp] theorem State.retireHe_ptxPend (s : State) (q : ReqWord) : (s.retireHe q).ptxPend = s.ptxPend := rfl
@[simp] theorem State.retireHe_conOut (s : State) (q : ReqWord) : (s.retireHe q).conOut = s.conOut := rfl
@[simp] theorem State.retireHe_ptxOut (s : State) (q : ReqWord) : (s.retireHe q).ptxOut = s.ptxOut := rfl
@[simp] theorem State.retireHe_he (s : State) (q : ReqWord) : (s.retireHe q).he = s.he.retire q := rfl
@[simp] theorem State.retireHe_fb (s : State) (q : ReqWord) : (s.retireHe q).fb = s.fb := rfl
@[simp] theorem State.retireHe_rt (s : State) (q : ReqWord) : (s.retireHe q).rt = s.rt := rfl
@[simp] theorem State.retireHe_heOut (s : State) (q : ReqWord) : (s.retireHe q).heOut = s.heOut := rfl
@[simp] theorem State.retireHe_cfg (s : State) (q : ReqWord) : (s.retireHe q).cfg = s.cfg := rfl
@[simp] theorem State.retireHe_sched (s : State) (q : ReqWord) : (s.retireHe q).sched = s.sched := rfl
@[simp] theorem State.retireHe_tick (s : State) (q : ReqWord) : (s.retireHe q).tick = s.tick := rfl

@[simp] theorem State.retireFb_st (s : State) (q : ReqWord) : (s.retireFb q).st = s.st := rfl
@[simp] theorem State.retireFb_hdr (s : State) (q : ReqWord) : (s.retireFb q).hdr = s.hdr := rfl
@[simp] theorem State.retireFb_irqPend (s : State) (q : ReqWord) : (s.retireFb q).irqPend = s.irqPend := rfl
@[simp] theorem State.retireFb_fault (s : State) (q : ReqWord) : (s.retireFb q).fault = s.fault := rfl
@[simp] theorem State.retireFb_prxQ (s : State) (q : ReqWord) : (s.retireFb q).prxQ = s.prxQ := rfl
@[simp] theorem State.retireFb_conPend (s : State) (q : ReqWord) : (s.retireFb q).conPend = s.conPend := rfl
@[simp] theorem State.retireFb_ptxPend (s : State) (q : ReqWord) : (s.retireFb q).ptxPend = s.ptxPend := rfl
@[simp] theorem State.retireFb_conOut (s : State) (q : ReqWord) : (s.retireFb q).conOut = s.conOut := rfl
@[simp] theorem State.retireFb_ptxOut (s : State) (q : ReqWord) : (s.retireFb q).ptxOut = s.ptxOut := rfl
@[simp] theorem State.retireFb_he (s : State) (q : ReqWord) : (s.retireFb q).he = s.he := rfl
@[simp] theorem State.retireFb_fb (s : State) (q : ReqWord) : (s.retireFb q).fb = s.fb.retire q := rfl
@[simp] theorem State.retireFb_rt (s : State) (q : ReqWord) : (s.retireFb q).rt = s.rt := rfl
@[simp] theorem State.retireFb_heOut (s : State) (q : ReqWord) : (s.retireFb q).heOut = s.heOut := rfl
@[simp] theorem State.retireFb_cfg (s : State) (q : ReqWord) : (s.retireFb q).cfg = s.cfg := rfl
@[simp] theorem State.retireFb_sched (s : State) (q : ReqWord) : (s.retireFb q).sched = s.sched := rfl
@[simp] theorem State.retireFb_tick (s : State) (q : ReqWord) : (s.retireFb q).tick = s.tick := rfl

@[simp] theorem State.retireRt_st (s : State) (q : ReqWord) : (s.retireRt q).st = s.st := rfl
@[simp] theorem State.retireRt_hdr (s : State) (q : ReqWord) : (s.retireRt q).hdr = s.hdr := rfl
@[simp] theorem State.retireRt_irqPend (s : State) (q : ReqWord) : (s.retireRt q).irqPend = s.irqPend := rfl
@[simp] theorem State.retireRt_fault (s : State) (q : ReqWord) : (s.retireRt q).fault = s.fault := rfl
@[simp] theorem State.retireRt_prxQ (s : State) (q : ReqWord) : (s.retireRt q).prxQ = s.prxQ := rfl
@[simp] theorem State.retireRt_conPend (s : State) (q : ReqWord) : (s.retireRt q).conPend = s.conPend := rfl
@[simp] theorem State.retireRt_ptxPend (s : State) (q : ReqWord) : (s.retireRt q).ptxPend = s.ptxPend := rfl
@[simp] theorem State.retireRt_conOut (s : State) (q : ReqWord) : (s.retireRt q).conOut = s.conOut := rfl
@[simp] theorem State.retireRt_ptxOut (s : State) (q : ReqWord) : (s.retireRt q).ptxOut = s.ptxOut := rfl
@[simp] theorem State.retireRt_he (s : State) (q : ReqWord) : (s.retireRt q).he = s.he := rfl
@[simp] theorem State.retireRt_fb (s : State) (q : ReqWord) : (s.retireRt q).fb = s.fb := rfl
@[simp] theorem State.retireRt_rt (s : State) (q : ReqWord) : (s.retireRt q).rt = s.rt.retire q := rfl
@[simp] theorem State.retireRt_heOut (s : State) (q : ReqWord) : (s.retireRt q).heOut = s.heOut := rfl
@[simp] theorem State.retireRt_cfg (s : State) (q : ReqWord) : (s.retireRt q).cfg = s.cfg := rfl
@[simp] theorem State.retireRt_sched (s : State) (q : ReqWord) : (s.retireRt q).sched = s.sched := rfl
@[simp] theorem State.retireRt_tick (s : State) (q : ReqWord) : (s.retireRt q).tick = s.tick := rfl

@[simp] theorem State.issueRt_st (s : State) (q : ReqWord) : (s.issueRt q).st = s.st := rfl
@[simp] theorem State.issueRt_hdr (s : State) (q : ReqWord) : (s.issueRt q).hdr = s.hdr := rfl
@[simp] theorem State.issueRt_irqPend (s : State) (q : ReqWord) : (s.issueRt q).irqPend = s.irqPend := rfl
@[simp] theorem State.issueRt_fault (s : State) (q : ReqWord) : (s.issueRt q).fault = s.fault := rfl
@[simp] theorem State.issueRt_prxQ (s : State) (q : ReqWord) : (s.issueRt q).prxQ = s.prxQ := rfl
@[simp] theorem State.issueRt_conPend (s : State) (q : ReqWord) : (s.issueRt q).conPend = s.conPend := rfl
@[simp] theorem State.issueRt_ptxPend (s : State) (q : ReqWord) : (s.issueRt q).ptxPend = s.ptxPend := rfl
@[simp] theorem State.issueRt_conOut (s : State) (q : ReqWord) : (s.issueRt q).conOut = s.conOut := rfl
@[simp] theorem State.issueRt_ptxOut (s : State) (q : ReqWord) : (s.issueRt q).ptxOut = s.ptxOut := rfl
@[simp] theorem State.issueRt_he (s : State) (q : ReqWord) : (s.issueRt q).he = s.he := rfl
@[simp] theorem State.issueRt_fb (s : State) (q : ReqWord) : (s.issueRt q).fb = s.fb := rfl
@[simp] theorem State.issueRt_rt (s : State) (q : ReqWord) : (s.issueRt q).rt = s.rt.issue q := rfl
@[simp] theorem State.issueRt_heOut (s : State) (q : ReqWord) : (s.issueRt q).heOut = s.heOut := rfl
@[simp] theorem State.issueRt_cfg (s : State) (q : ReqWord) : (s.issueRt q).cfg = s.cfg := rfl
@[simp] theorem State.issueRt_sched (s : State) (q : ReqWord) : (s.issueRt q).sched = s.sched := rfl
@[simp] theorem State.issueRt_tick (s : State) (q : ReqWord) : (s.issueRt q).tick = s.tick := rfl

@[simp] theorem State.enterBurst_st (s : State) : (s.enterBurst).st = .servicing := rfl
@[simp] theorem State.enterBurst_hdr (s : State) : (s.enterBurst).hdr = false := rfl
@[simp] theorem State.enterBurst_irqPend (s : State) : (s.enterBurst).irqPend = false := rfl
@[simp] theorem State.enterBurst_fault (s : State) : (s.enterBurst).fault = s.fault := rfl
@[simp] theorem State.enterBurst_prxQ (s : State) : (s.enterBurst).prxQ = s.prxQ := rfl
@[simp] theorem State.enterBurst_conPend (s : State) : (s.enterBurst).conPend = s.conPend := rfl
@[simp] theorem State.enterBurst_ptxPend (s : State) : (s.enterBurst).ptxPend = s.ptxPend := rfl
@[simp] theorem State.enterBurst_conOut (s : State) : (s.enterBurst).conOut = s.conOut := rfl
@[simp] theorem State.enterBurst_ptxOut (s : State) : (s.enterBurst).ptxOut = s.ptxOut := rfl
@[simp] theorem State.enterBurst_he (s : State) : (s.enterBurst).he = s.he := rfl
@[simp] theorem State.enterBurst_fb (s : State) : (s.enterBurst).fb = s.fb := rfl
@[simp] theorem State.enterBurst_rt (s : State) : (s.enterBurst).rt = s.rt := rfl
@[simp] theorem State.enterBurst_heOut (s : State) : (s.enterBurst).heOut = s.heOut := rfl
@[simp] theorem State.enterBurst_cfg (s : State) : (s.enterBurst).cfg = s.cfg := rfl
@[simp] theorem State.enterBurst_sched (s : State) : (s.enterBurst).sched = s.sched := rfl
@[simp] theorem State.enterBurst_tick (s : State) : (s.enterBurst).tick = s.tick := rfl

@[simp] theorem State.leaveBurst_st (s : State) : (s.leaveBurst).st = .idle := rfl
@[simp] theorem State.leaveBurst_hdr (s : State) : (s.leaveBurst).hdr = false := rfl
@[simp] theorem State.leaveBurst_irqPend (s : State) : (s.leaveBurst).irqPend = s.irqPend := rfl
@[simp] theorem State.leaveBurst_fault (s : State) : (s.leaveBurst).fault = s.fault := rfl
@[simp] theorem State.leaveBurst_prxQ (s : State) : (s.leaveBurst).prxQ = s.prxQ := rfl
@[simp] theorem State.leaveBurst_conPend (s : State) : (s.leaveBurst).conPend = s.conPend := rfl
@[simp] theorem State.leaveBurst_ptxPend (s : State) : (s.leaveBurst).ptxPend = s.ptxPend := rfl
@[simp] theorem State.leaveBurst_conOut (s : State) : (s.leaveBurst).conOut = s.conOut := rfl
@[simp] theorem State.leaveBurst_ptxOut (s : State) : (s.leaveBurst).ptxOut = s.ptxOut := rfl
@[simp] theorem State.leaveBurst_he (s : State) : (s.leaveBurst).he = s.he := rfl
@[simp] theorem State.leaveBurst_fb (s : State) : (s.leaveBurst).fb = s.fb := rfl
@[simp] theorem State.leaveBurst_rt (s : State) : (s.leaveBurst).rt = s.rt := rfl
@[simp] theorem State.leaveBurst_heOut (s : State) : (s.leaveBurst).heOut = s.heOut := rfl
@[simp] theorem State.leaveBurst_cfg (s : State) : (s.leaveBurst).cfg = s.cfg := rfl
@[simp] theorem State.leaveBurst_sched (s : State) : (s.leaveBurst).sched = s.sched := rfl
@[simp] theorem State.leaveBurst_tick (s : State) : (s.leaveBurst).tick = s.tick := rfl

@[simp] theorem State.markHeader_st (s : State) : (s.markHeader).st = s.st := rfl
@[simp] theorem State.markHeader_hdr (s : State) : (s.markHeader).hdr = true := rfl
@[simp] theorem State.markHeader_irqPend (s : State) : (s.markHeader).irqPend = s.irqPend := rfl
@[simp] theorem State.markHeader_fault (s : State) : (s.markHeader).fault = s.fault := rfl
@[simp] theorem State.markHeader_prxQ (s : State) : (s.markHeader).prxQ = s.prxQ := rfl
@[simp] theorem State.markHeader_conPend (s : State) : (s.markHeader).conPend = s.conPend := rfl
@[simp] theorem State.markHeader_ptxPend (s : State) : (s.markHeader).ptxPend = s.ptxPend := rfl
@[simp] theorem State.markHeader_conOut (s : State) : (s.markHeader).conOut = s.conOut := rfl
@[simp] theorem State.markHeader_ptxOut (s : State) : (s.markHeader).ptxOut = s.ptxOut := rfl
@[simp] theorem State.markHeader_he (s : State) : (s.markHeader).he = s.he := rfl
@[simp] theorem State.markHeader_fb (s : State) : (s.markHeader).fb = s.fb := rfl
@[simp] theorem State.markHeader_rt (s : State) : (s.markHeader).rt = s.rt := rfl
@[simp] theorem State.markHeader_heOut (s : State) : (s.markHeader).heOut = s.heOut := rfl
@[simp] theorem State.markHeader_cfg (s : State) : (s.markHeader).cfg = s.cfg := rfl
@[simp] theorem State.markHeader_sched (s : State) : (s.markHeader).sched = s.sched := rfl
@[simp] theorem State.markHeader_tick (s : State) : (s.markHeader).tick = s.tick := rfl

@[simp] theorem State.arrive_st (s : State) (b : Byte) : (s.arrive b).st = s.st := rfl
@[simp] theorem State.arrive_hdr (s : State) (b : Byte) : (s.arrive b).hdr = s.hdr := rfl
@[simp] theorem State.arrive_irqPend (s : State) (b : Byte) : (s.arrive b).irqPend = true := rfl
@[simp] theorem State.arrive_fault (s : State) (b : Byte) : (s.arrive b).fault = s.fault := rfl
@[simp] theorem State.arrive_prxQ (s : State) (b : Byte) : (s.arrive b).prxQ = s.prxQ ++ [b] := rfl
@[simp] theorem State.arrive_conPend (s : State) (b : Byte) : (s.arrive b).conPend = s.conPend := rfl
@[simp] theorem State.arrive_ptxPend (s : State) (b : Byte) : (s.arrive b).ptxPend = s.ptxPend := rfl
@[simp] theorem State.arrive_conOut (s : State) (b : Byte) : (s.arrive b).conOut = s.conOut := rfl
@[simp] theorem State.arrive_ptxOut (s : State) (b : Byte) : (s.arrive b).ptxOut = s.ptxOut := rfl
@[simp] theorem State.arrive_he (s : State) (b : Byte) : (s.arrive b).he = s.he := rfl
@[simp] theorem State.arrive_fb (s : State) (b : Byte) : (s.arrive b).fb = s.fb := rfl
@[simp] theorem State.arrive_rt (s : State) (b : Byte) : (s.arrive b).rt = s.rt := rfl
@[simp] theorem State.arrive_heOut (s : State) (b : Byte) : (s.arrive b).heOut = s.heOut := rfl
@[simp] theorem State.arrive_cfg (s : State) (b : Byte) : (s.arrive b).cfg = s.cfg := rfl
@[simp] theorem State.arrive_sched (s : State) (b : Byte) : (s.arrive b).sched = s.sched := rfl
@[simp] theorem State.arrive_tick (s : State) (b : Byte) : (s.arrive b).tick = s.tick := rfl

@[simp] theorem State.spurious_st (s : State) : (s.spurious).st = s.st := rfl
@[simp] theorem State.spurious_hdr (s : State) : (s.spurious).hdr = s.hdr := rfl
@[simp] theorem State.spurious_irqPend (s : State) : (s.spurious).irqPend = true := rfl
@[simp] theorem State.spurious_fault (s : State) : (s.spurious).fault = s.fault := rfl
@[simp] theorem State.spurious_prxQ (s : State) : (s.spurious).prxQ = s.prxQ := rfl
@[simp] theorem State.spurious_conPend (s : State) : (s.spurious).conPend = s.conPend := rfl
@[simp] theorem State.spurious_ptxPend (s : State) : (s.spurious).ptxPend = s.ptxPend := rfl
@[simp] theorem State.spurious_conOut (s : State) : (s.spurious).conOut = s.conOut := rfl
@[simp] theorem State.spurious_ptxOut (s : State) : (s.spurious).ptxOut = s.ptxOut := rfl
@[simp] theorem State.spurious_he (s : State) : (s.spurious).he = s.he := rfl
@[simp] theorem State.spurious_fb (s : State) : (s.spurious).fb = s.fb := rfl
@[simp] theorem State.spurious_rt (s : State) : (s.spurious).rt = s.rt := rfl
@[simp] theorem State.spurious_heOut (s : State) : (s.spurious).heOut = s.heOut := rfl
@[simp] theorem State.spurious_cfg (s : State) : (s.spurious).cfg = s.cfg := rfl
@[simp] theorem State.spurious_sched (s : State) : (s.spurious).sched = s.sched := rfl
@[simp] theorem State.spurious_tick (s : State) : (s.spurious).tick = s.tick := rfl

@[simp] theorem State.dropResponse_st (s : State) : (s.dropResponse).st = s.st := rfl
@[simp] theorem State.dropResponse_hdr (s : State) : (s.dropResponse).hdr = s.hdr := rfl
@[simp] theorem State.dropResponse_irqPend (s : State) : (s.dropResponse).irqPend = s.irqPend := rfl
@[simp] theorem State.dropResponse_fault (s : State) : (s.dropResponse).fault = s.fault := rfl
@[simp] theorem State.dropResponse_prxQ (s : State) : (s.dropResponse).prxQ = s.prxQ := rfl
@[simp] theorem State.dropResponse_conPend (s : State) : (s.dropResponse).conPend = s.conPend := rfl
@[simp] theorem State.dropResponse_ptxPend (s : State) : (s.dropResponse).ptxPend = s.ptxPend := rfl
@[simp] theorem State.dropResponse_conOut (s : State) : (s.dropResponse).conOut = s.conOut := rfl
@[simp] theorem State.dropResponse_ptxOut (s : State) : (s.dropResponse).ptxOut = s.ptxOut := rfl
@[simp] theorem State.dropResponse_he (s : State) : (s.dropResponse).he = s.he := rfl
@[simp] theorem State.dropResponse_fb (s : State) : (s.dropResponse).fb = s.fb := rfl
@[simp] theorem State.dropResponse_rt (s : State) : (s.dropResponse).rt = s.rt := rfl
@[simp] theorem State.dropResponse_heOut (s : State) : (s.dropResponse).heOut = none := rfl
@[simp] theorem State.dropResponse_cfg (s : State) : (s.dropResponse).cfg = s.cfg := rfl
@[simp] theorem State.dropResponse_sched (s : State) : (s.dropResponse).sched = s.sched := rfl
@[simp] theorem State.dropResponse_tick (s : State) : (s.dropResponse).tick = s.tick := rfl

@[simp] theorem State.acceptCon_st (s : State) : s.acceptCon.st = s.st := by
  unfold State.acceptCon; split <;> rfl
@[simp] theorem State.acceptCon_hdr (s : State) : s.acceptCon.hdr = s.hdr := by
  unfold State.acceptCon; split <;> rfl
@[simp] theorem State.acceptCon_irqPend (s : State) : s.acceptCon.irqPend = s.irqPend := by
  unfold State.acceptCon; split <;> rfl
@[simp] theorem State.acceptCon_fault (s : State) : s.acceptCon.fault = s.fault := by
  unfold State.acceptCon; split <;> rfl
@[simp] theorem State.acceptCon_prxQ (s : State) : s.acceptCon.prxQ = s.prxQ := by
  unfold State.acceptCon; split <;> rfl
@[simp] theorem State.acceptCon_ptxPend (s : State) : s.acceptCon.ptxPend = s.ptxPend := by
  unfold State.acceptCon; split <;> rfl
@[simp] theorem State.acceptCon_ptxOut (s : State) : s.acceptCon.ptxOut = s.ptxOut := by
  unfold State.acceptCon; split <;> rfl
@[simp] theorem State.acceptCon_he (s : State) : s.acceptCon.he = s.he := by
  unfold State.acceptCon; split <;> rfl
@[simp] theorem State.acceptCon_fb (s : State) : s.acceptCon.fb = s.fb := by
  unfold State.acceptCon; split <;> rfl
@[simp] theorem State.acceptCon_rt (s : State) : s.acceptCon.rt = s.rt := by
  unfold State.acceptCon; split <;> rfl
@[simp] theorem State.acceptCon_heOut (s : State) : s.acceptCon.heOut = s.heOut := by
  unfold State.acceptCon; split <;> rfl
@[simp] theorem State.acceptCon_cfg (s : State) : s.acceptCon.cfg = s.cfg := by
  unfold State.acceptCon; split <;> rfl
@[simp] theorem State.acceptCon_sched (s : State) : s.acceptCon.sched = s.sched := by
  unfold State.acceptCon; split <;> rfl
@[simp] theorem State.acceptCon_tick (s : State) : s.acceptCon.tick = s.tick := by
  unfold State.acceptCon; split <;> rfl

@[simp] theorem State.acceptPtx_st (s : State) : s.acceptPtx.st = s.st := by
  unfold State.acceptPtx; split <;> rfl
@[simp] theorem State.acceptPtx_hdr (s : State) : s.acceptPtx.hdr = s.hdr := by
  unfold State.acceptPtx; split <;> rfl
@[simp] theorem State.acceptPtx_irqPend (s : State) : s.acceptPtx.irqPend = s.irqPend := by
  unfold State.acceptPtx; split <;> rfl
@[simp] theorem State.acceptPtx_fault (s : State) : s.acceptPtx.fault = s.fault := by
  unfold State.acceptPtx; split <;> rfl
@[simp] theorem State.acceptPtx_prxQ (s : State) : s.acceptPtx.prxQ = s.prxQ := by
  unfold State.acceptPtx; split <;> rfl
@[simp] theorem State.acceptPtx_conPend (s : State) : s.acceptPtx.conPend = s.conPend := by
  unfold State.acceptPtx; split <;> rfl
@[simp] theorem State.acceptPtx_conOut (s : State) : s.acceptPtx.conOut = s.conOut := by
  unfold State.acceptPtx; split <;> rfl
@[simp] theorem State.acceptPtx_he (s : State) : s.acceptPtx.he = s.he := by
  unfold State.acceptPtx; split <;> rfl
@[simp] theorem State.acceptPtx_fb (s : State) : s.acceptPtx.fb = s.fb := by
  unfold State.acceptPtx; split <;> rfl
@[simp] theorem State.acceptPtx_rt (s : State) : s.acceptPtx.rt = s.rt := by
  unfold State.acceptPtx; split <;> rfl
@[simp] theorem State.acceptPtx_heOut (s : State) : s.acceptPtx.heOut = s.heOut := by
  unfold State.acceptPtx; split <;> rfl
@[simp] theorem State.acceptPtx_cfg (s : State) : s.acceptPtx.cfg = s.cfg := by
  unfold State.acceptPtx; split <;> rfl
@[simp] theorem State.acceptPtx_sched (s : State) : s.acceptPtx.sched = s.sched := by
  unfold State.acceptPtx; split <;> rfl
@[simp] theorem State.acceptPtx_tick (s : State) : s.acceptPtx.tick = s.tick := by
  unfold State.acceptPtx; split <;> rfl

@[simp] theorem State.present_st (s : State) (q : ReqWord) : (s.present q).st = s.st := by
  unfold State.present; split <;> rfl
@[simp] theorem State.present_hdr (s : State) (q : ReqWord) : (s.present q).hdr = s.hdr := by
  unfold State.present; split <;> rfl
@[simp] theorem State.present_irqPend (s : State) (q : ReqWord) : (s.present q).irqPend = s.irqPend := by
  unfold State.present; split <;> rfl
@[simp] theorem State.present_fault (s : State) (q : ReqWord) : (s.present q).fault = s.fault := by
  unfold State.present; split <;> rfl
@[simp] theorem State.present_prxQ (s : State) (q : ReqWord) : (s.present q).prxQ = s.prxQ := by
  unfold State.present; split <;> rfl
@[simp] theorem State.present_conPend (s : State) (q : ReqWord) : (s.present q).conPend = s.conPend := by
  unfold State.present; split <;> rfl
@[simp] theorem State.present_ptxPend (s : State) (q : ReqWord) : (s.present q).ptxPend = s.ptxPend := by
  unfold State.present; split <;> rfl
@[simp] theorem State.present_conOut (s : State) (q : ReqWord) : (s.present q).conOut = s.conOut := by
  unfold State.present; split <;> rfl
@[simp] theorem State.present_ptxOut (s : State) (q : ReqWord) : (s.present q).ptxOut = s.ptxOut := by
  unfold State.present; split <;> rfl
@[simp] theorem State.present_heOut (s : State) (q : ReqWord) : (s.present q).heOut = s.heOut := by
  unfold State.present; split <;> rfl
@[simp] theorem State.present_cfg (s : State) (q : ReqWord) : (s.present q).cfg = s.cfg := by
  unfold State.present; split <;> rfl
@[simp] theorem State.present_sched (s : State) (q : ReqWord) : (s.present q).sched = s.sched := by
  unfold State.present; split <;> rfl
@[simp] theorem State.present_tick (s : State) (q : ReqWord) : (s.present q).tick = s.tick := by
  unfold State.present; split <;> rfl

@[simp] theorem State.afterChoice_st (s : State) : s.afterChoice.st = s.st := by
  unfold State.afterChoice; split <;> rfl
@[simp] theorem State.afterChoice_hdr (s : State) : s.afterChoice.hdr = s.hdr := by
  unfold State.afterChoice; split <;> rfl
@[simp] theorem State.afterChoice_irqPend (s : State) : s.afterChoice.irqPend = s.irqPend := by
  unfold State.afterChoice; split <;> rfl
@[simp] theorem State.afterChoice_fault (s : State) : s.afterChoice.fault = s.fault := by
  unfold State.afterChoice; split <;> rfl
@[simp] theorem State.afterChoice_prxQ (s : State) : s.afterChoice.prxQ = s.prxQ := by
  unfold State.afterChoice; split <;> rfl
@[simp] theorem State.afterChoice_conPend (s : State) : s.afterChoice.conPend = s.conPend := by
  unfold State.afterChoice; split <;> rfl
@[simp] theorem State.afterChoice_ptxPend (s : State) : s.afterChoice.ptxPend = s.ptxPend := by
  unfold State.afterChoice; split <;> rfl
@[simp] theorem State.afterChoice_conOut (s : State) : s.afterChoice.conOut = s.conOut := by
  unfold State.afterChoice; split <;> rfl
@[simp] theorem State.afterChoice_ptxOut (s : State) : s.afterChoice.ptxOut = s.ptxOut := by
  unfold State.afterChoice; split <;> rfl
@[simp] theorem State.afterChoice_he (s : State) : s.afterChoice.he = s.he := by
  unfold State.afterChoice; split <;> rfl
@[simp] theorem State.afterChoice_fb (s : State) : s.afterChoice.fb = s.fb := by
  unfold State.afterChoice; split <;> rfl
@[simp] theorem State.afterChoice_rt (s : State) : s.afterChoice.rt = s.rt := by
  unfold State.afterChoice; split <;> rfl
@[simp] theorem State.afterChoice_heOut (s : State) : s.afterChoice.heOut = s.heOut := by
  unfold State.afterChoice; split <;> rfl
@[simp] theorem State.afterChoice_cfg (s : State) : s.afterChoice.cfg = s.cfg := by
  unfold State.afterChoice; split <;> rfl

end Sys2Proof.Machine
end

