-- ==== Sys2Proof/Laws/Exec.lean ====
section
/-! SUPPORT. What each shared operation can do, said once: the skeleton of a word, the checks, a FRAME word, and
`exec` as a whole; then the agents' steps. -/

namespace Sys2Proof.Machine

/-! ### The skeleton of a word -/

theorem unitStep_waits {held : Bool} {s : State} {act : State → State} (h : s.fault ≠ none ∨ held = true) :
    unitStep held s act = .next s := by
  unfold unitStep State.halted
  cases hf : s.fault <;> simp_all

theorem unitStep_runs {held : Bool} {s : State} {act : State → State} (hf : s.fault = none) (hh : held = false) :
    unitStep held s act = .next (act s) := by
  simp [unitStep, State.halted, hf, hh]

/-- A word either waits, changing nothing, or has its effect in a state with no fault and no hold. -/
theorem unitStep_cases {held : Bool} {s t : State} {act : State → State} (h : unitStep held s act = .next t) :
    t = s ∨ (s.fault = none ∧ held = false ∧ t = act s) := by
  unfold unitStep State.halted at h
  cases hf : s.fault <;> cases hh : held <;> simp_all

theorem unitStep_isNext (held : Bool) (s : State) (act : State → State) : ∃ t, unitStep held s act = .next t := by
  unfold unitStep; split <;> exact ⟨_, rfl⟩

theorem conHeld_eq_false {s : State} : s.conHeld = false ↔ s.conPend = [] := by
  simp [State.conHeld]

theorem ptxHeld_eq_false {s : State} : s.ptxHeld = false ↔ s.ptxPend = [] := by
  simp [State.ptxHeld]

/-! ### The checks -/

theorem checked_cases (check : State → Option Fault) (act : State → State) (s : State) :
    (∃ f, check s = some f ∧ checked check act s = s.raise f) ∨ (check s = none ∧ checked check act s = act s) := by
  unfold checked; cases check s <;> simp

theorem beginCheck_eq_none {s : State} : beginCheck s = none ↔ s.st = .idle := by
  unfold beginCheck; cases s.st <;> simp

theorem rxCheck_eq_none {b : Byte} {s : State} :
    rxCheck b s = none ↔ s.st = .servicing ∧ s.prxQ.head? = some b := by
  unfold rxCheck; cases s.st <;> simp

theorem endCheck_eq_none {s : State} : endCheck s = none ↔ s.st = .servicing ∧ s.prxQ = [] := by
  unfold endCheck; cases s.st <;> simp

/-! ### Everything `exec` can do -/

/-- The command of a FRAME operation. -/
def frameCommand : Instr → Option Command
  | .frameI => some .i
  | .frameP => some .p
  | .frameN => some .n
  | .frameS => some .s
  | .frameV => some .v
  | .frameQ => some .q
  | .frameZ => some .z
  | .frameUnrec _ => some .unrecognized
  | _ => none

theorem exec_frame {i : Instr} {c : Command} (h : frameCommand i = some c) (s : State) :
    exec i s = frameStep i c s := by
  cases i <;> simp [frameCommand] at h <;> subst h <;> rfl

/-- The five things a word can do: wait, raise a fault, answer on HE_OUT, emit a frame, or take a step of the burst. -/
theorem exec_cases {i : Instr} {s t : State} (h : exec i s = .next t) :
    t = s ∨
    (∃ f, s.fault = none ∧ i.owner = .rt ∧ t = s.raise f) ∨
    (∃ v, s.fault = none ∧ i = .hex v ∧ t = (s.respond (heResponse v)).retireHe (encode i)) ∨
    (∃ c, s.fault = none ∧ s.ptxPend = [] ∧ frameCommand i = some c ∧
      t = (s.emitPtx (frameBytes s.cfg.checksumMode c)).retireFb (encode i)) ∨
    (s.fault = none ∧ s.conPend = [] ∧ i = .beginBurst ∧ s.st = .idle ∧
      t = s.enterBurst.retireRt (encode i)) ∨
    (∃ b, s.fault = none ∧ s.conPend = [] ∧ i = .rx b ∧ s.st = .servicing ∧ s.prxQ.head? = some b ∧
      t = (s.takePrx.emitCon (s.pendingHeader ++ digitPair b)).markHeader.retireRt (encode i)) ∨
    (s.fault = none ∧ s.conPend = [] ∧ i = .endBurst ∧ s.st = .servicing ∧ s.prxQ = [] ∧
      t = s.leaveBurst.retireRt (encode i)) := by
  cases hc : frameCommand i with
  | some c =>
    rw [exec_frame hc] at h
    rcases unitStep_cases h with h | ⟨hf, hh, h⟩
    · exact .inl h
    · exact .inr (.inr (.inr (.inl ⟨c, hf, ptxHeld_eq_false.1 hh, rfl, h⟩)))
  | none =>
    cases i with
    | hex v =>
      simp only [exec, execHex] at h
      rcases unitStep_cases h with h | ⟨hf, -, h⟩
      · exact .inl h
      · exact .inr (.inr (.inl ⟨v, hf, rfl, h⟩))
    | beginBurst =>
      rcases unitStep_cases h with h | ⟨hf, hh, h⟩
      · exact .inl h
      · rcases checked_cases beginCheck (fun s => s.enterBurst.retireRt (encode .beginBurst)) s with
          ⟨f, -, hr⟩ | ⟨hn, hr⟩
        · exact .inr (.inl ⟨f, hf, rfl, h.trans hr⟩)
        · exact .inr (.inr (.inr (.inr (.inl
            ⟨hf, conHeld_eq_false.1 hh, rfl, beginCheck_eq_none.1 hn, h.trans hr⟩))))
    | rx b =>
      rcases unitStep_cases h with h | ⟨hf, hh, h⟩
      · exact .inl h
      · rcases checked_cases (rxCheck b) (fun s =>
          ((s.takePrx.emitCon (s.pendingHeader ++ digitPair b)).markHeader).retireRt (encode (.rx b))) s with
          ⟨f, -, hr⟩ | ⟨hn, hr⟩
        · exact .inr (.inl ⟨f, hf, rfl, h.trans hr⟩)
        · exact .inr (.inr (.inr (.inr (.inr (.inl ⟨b, hf, conHeld_eq_false.1 hh, rfl, (rxCheck_eq_none.1 hn).1,
            (rxCheck_eq_none.1 hn).2, h.trans hr⟩)))))
    | endBurst =>
      rcases unitStep_cases h with h | ⟨hf, hh, h⟩
      · exact .inl h
      · rcases checked_cases endCheck (fun s => s.leaveBurst.retireRt (encode .endBurst)) s with
          ⟨f, -, hr⟩ | ⟨hn, hr⟩
        · exact .inr (.inl ⟨f, hf, rfl, h.trans hr⟩)
        · exact .inr (.inr (.inr (.inr (.inr (.inr ⟨hf, conHeld_eq_false.1 hh, rfl, (endCheck_eq_none.1 hn).1,
            (endCheck_eq_none.1 hn).2, h.trans hr⟩)))))
    | reserved d =>
      simp only [exec, execReserved] at h
      rcases unitStep_cases h with h | ⟨hf, -, h⟩
      · exact .inl h
      · exact .inr (.inl ⟨_, hf, rfl, h⟩)
    | _ => simp [frameCommand] at hc

theorem exec_isNext (i : Instr) (s : State) : ∃ t, exec i s = .next t := by
  cases i <;> simp only [exec, execHex, execFrameI, execFrameP, execFrameN, execFrameS, execFrameV, execFrameQ,
    execFrameZ, execFrameUnrec, frameStep, execRx, execBeginBurst, execEndBurst, execReserved] <;>
    exact unitStep_isNext _ _ _

/-! ### The sinks and the agents -/

theorem acceptCon_cases (s : State) :
    (s.conPend = [] ∧ s.acceptCon = s) ∨
    (∃ b rest, s.conPend = b :: rest ∧ s.acceptCon = { s with conOut := s.conOut ++ [b], conPend := rest }) := by
  unfold State.acceptCon
  cases h : s.conPend with
  | nil => exact .inl ⟨rfl, rfl⟩
  | cons b rest => exact .inr ⟨b, rest, rfl, rfl⟩

theorem acceptPtx_cases (s : State) :
    (s.ptxPend = [] ∧ s.acceptPtx = s) ∨
    (∃ b rest, s.ptxPend = b :: rest ∧ s.acceptPtx = { s with ptxOut := s.ptxOut ++ [b], ptxPend := rest }) := by
  unfold State.acceptPtx
  cases h : s.ptxPend with
  | nil => exact .inl ⟨rfl, rfl⟩
  | cons b rest => exact .inr ⟨b, rest, rfl, rfl⟩

/-- The sinks' conservation: a sink moves bytes, it makes and drops none (R43). -/
theorem acceptCon_stream (s : State) : s.acceptCon.conOut ++ s.acceptCon.conPend = s.conOut ++ s.conPend := by
  rcases acceptCon_cases s with ⟨-, h⟩ | ⟨b, rest, hp, h⟩ <;> simp [*]

theorem acceptPtx_stream (s : State) : s.acceptPtx.ptxOut ++ s.acceptPtx.ptxPend = s.ptxOut ++ s.ptxPend := by
  rcases acceptPtx_cases s with ⟨-, h⟩ | ⟨b, rest, hp, h⟩ <;> simp [*]

/-- Presentation appends one word to the list of the unit that owns it. -/
theorem present_cases (s : State) (q : ReqWord) :
    (wordOwner q = .he ∧ s.present q = { s with he := s.he.present q }) ∨
    (wordOwner q = .fb ∧ s.present q = { s with fb := s.fb.present q }) ∨
    (wordOwner q = .rt ∧ s.present q = { s with rt := s.rt.present q }) := by
  unfold State.present; cases wordOwner q <;> simp

/-- What the sequencer can choose (R118). -/
theorem seqInstr_cases (s : State) :
    (seqInstr s = none ∧ (s.fault ≠ none ∨ s.conPend ≠ [] ∨ (s.st = .idle ∧ s.irqPend = false))) ∨
    (s.fault = none ∧ s.conPend = [] ∧
      ((seqInstr s = some .beginBurst ∧ s.st = .idle ∧ s.irqPend = true) ∨
       (∃ b rest, seqInstr s = some (.rx b) ∧ s.st = .servicing ∧ s.prxQ = b :: rest) ∨
       (seqInstr s = some .endBurst ∧ s.st = .servicing ∧ s.prxQ = []))) := by
  unfold seqInstr State.halted State.conHeld
  cases hf : s.fault <;> cases hc : s.conPend <;> cases hs : s.st <;> cases hi : s.irqPend <;>
    cases hp : s.prxQ <;> simp

/-- What the sequencer's step can do: nothing, or BEGIN, RX of the head, or END, completed; never a fault (R118). -/
theorem seqStep_cases (s : State) :
    (seqInstr s = none ∧ seqStep s = .next s) ∨
    (s.fault = none ∧ s.conPend = [] ∧
      ((s.st = .idle ∧ s.irqPend = true ∧
          seqStep s = .next ((s.issueRt (encode .beginBurst)).enterBurst.retireRt (encode .beginBurst))) ∨
       (∃ b rest, s.st = .servicing ∧ s.prxQ = b :: rest ∧
          seqStep s = .next (((s.issueRt (encode (.rx b))).takePrx.emitCon
            (s.pendingHeader ++ digitPair b)).markHeader.retireRt (encode (.rx b)))) ∨
       (s.st = .servicing ∧ s.prxQ = [] ∧
          seqStep s = .next ((s.issueRt (encode .endBurst)).leaveBurst.retireRt (encode .endBurst))))) := by
  rcases seqInstr_cases s with ⟨hn, -⟩ | ⟨hf, hc, ⟨hi, hs, hq⟩ | ⟨b, rest, hi, hs, hp⟩ | ⟨hi, hs, hp⟩⟩
  · exact .inl ⟨hn, by simp [seqStep, hn]⟩
  · refine .inr ⟨hf, hc, .inl ⟨hs, hq, ?_⟩⟩
    simp only [seqStep, hi, exec, execBeginBurst]
    rw [unitStep_runs (by simpa using hf) (by simpa [State.conHeld] using hc)]
    simp [checked, beginCheck, hs]
  · refine .inr ⟨hf, hc, .inr (.inl ⟨b, rest, hs, hp, ?_⟩)⟩
    simp only [seqStep, hi, exec, execRx]
    rw [unitStep_runs (by simpa using hf) (by simpa [State.conHeld] using hc)]
    simp [checked, rxCheck, hs, hp]
    rfl
  · refine .inr ⟨hf, hc, .inr (.inr ⟨hs, hp, ?_⟩)⟩
    simp only [seqStep, hi, exec, execEndBurst]
    rw [unitStep_runs (by simpa using hf) (by simpa [State.conHeld] using hc)]
    simp [checked, endCheck, hs, hp]

theorem runUnit_cases (u : HwUnit) (s : State) :
    ((s.port u).waiting = [] ∧ runUnit u s = .next s) ∨
    (∃ q rest, (s.port u).waiting = q :: rest ∧ runUnit u s = exec (decode q) s) := by
  unfold runUnit State.fetch
  cases h : (s.port u).waiting with
  | nil => exact .inl ⟨rfl, rfl⟩
  | cons q rest => exact .inr ⟨q, rest, rfl, rfl⟩

/-! ### Enabled steps -/

/-- A unit is ready exactly when it has a next word that neither a fault nor the hold keeps back (R131, R45). -/
theorem unitReady_iff (u : HwUnit) (s : State) :
    unitReady u s = true ↔ s.fault = none ∧ ∃ q, s.fetch u = some q ∧ wordHolds (decode q) s = false := by
  unfold unitReady State.halted
  cases s.fetch u <;> simp

/-- The sequencer's step is enabled exactly when it has a word to choose (R118). -/
theorem enabled_seq_iff (s : State) : enabled .seq s = true ↔ ∃ i, seqInstr s = some i := by
  simp [enabled, Option.isSome_iff_exists]

@[simp] theorem enabled_acceptCon (s : State) : enabled .acceptCon s = s.conHeld := rfl
@[simp] theorem enabled_acceptPtx (s : State) : enabled .acceptPtx s = s.ptxHeld := rfl
@[simp] theorem enabled_run (u : HwUnit) (s : State) : enabled (.run u) s = unitReady u s := rfl

theorem step_eq (s : State) : step s = agentStep s.nextChoice s.afterChoice.dropResponse := rfl

end Sys2Proof.Machine
end

