-- ==== Sys2Proof/Laws/PerInstr.lean ====
section
/-! SUPPORT. Facts about every operation as syntax, one lemma per constructor. -/

namespace Sys2Proof

theorem opField_mkWord (op : BitVec 2) (d : Byte) : opField (mkWord op d) = op := by
  unfold opField mkWord
  ext i hi
  have h2 : 8 + i < 10 := by omega
  simp [hi, h2]

theorem dField_mkWord (op : BitVec 2) (d : Byte) : dField (mkWord op d) = d := by
  unfold dField mkWord
  ext i hi
  have h1 : i < 10 := by omega
  simp [hi, h1]

/-- The unit that a word is presented to is the unit of the operation it decodes to. -/
theorem decode_owner (q : ReqWord) : (decode q).owner = wordOwner q := by
  unfold decode decodeFrame decodeCtl wordOwner
  split_ifs <;> simp_all [Instr.owner]

end Sys2Proof

/-- The OP field of an operation's word presents it to the unit that executes the operation (R62 to R65). -/
def Sys2Proof.Laws.EncodeOwner.Statement (i : Sys2Proof.Instr) : Prop := Sys2Proof.wordOwner (Sys2Proof.encode i) = i.owner

namespace Sys2Proof.Laws.EncodeOwner

theorem hex (v : Byte) : Statement (.hex v) := by
  simp [Statement, wordOwner, encode, opField_mkWord, Instr.owner]
theorem frameI : Statement .frameI := rfl
theorem frameP : Statement .frameP := rfl
theorem frameN : Statement .frameN := rfl
theorem frameS : Statement .frameS := rfl
theorem frameV : Statement .frameV := rfl
theorem frameQ : Statement .frameQ := rfl
theorem frameZ : Statement .frameZ := rfl
theorem frameUnrec (c : Byte) : Statement (.frameUnrec c) := by
  simp [Statement, wordOwner, encode, opField_mkWord, Instr.owner]
theorem rx (b : Byte) : Statement (.rx b) := by
  simp [Statement, wordOwner, encode, opField_mkWord, Instr.owner]
theorem beginBurst : Statement .beginBurst := rfl
theorem endBurst : Statement .endBurst := rfl
theorem reserved (d : Byte) : Statement (.reserved d) := by
  simp [Statement, wordOwner, encode, opField_mkWord, Instr.owner]

end Sys2Proof.Laws.EncodeOwner
end

