-- ==== Sys2Proof/Laws/Runs.lean ====
section
/-! SUPPORT. What one turn of an endless run takes. -/

namespace Sys2Proof.Machine

@[simp] theorem turn_of_enabled {c : Choice} {s : State} (h : enabled c s = true) : turn c s = c := by
  simp [turn, h]

/-- A turn takes its choice, or, where the choice is not enabled, a word that FB or HE may execute, if there is one. -/
theorem turn_cases (c : Choice) (s : State) :
    (enabled c s = true ∧ turn c s = c) ∨
    (enabled c s = false ∧ ∃ u, u ≠ .rt ∧ unitReady u s = true ∧ turn c s = .run u) ∨
    (enabled c s = false ∧ unitReady .fb s = false ∧ unitReady .he s = false ∧ turn c s = c) := by
  unfold turn
  cases hc : enabled c s with
  | true => simp
  | false =>
    cases hf : unitReady .fb s with
    | true => exact .inr (.inl ⟨rfl, .fb, by simp, hf, by simp⟩)
    | false =>
      cases hh : unitReady .he s with
      | true => exact .inr (.inl ⟨rfl, .he, by simp, hh, by simp⟩)
      | false => simp

/-- A turn takes an input or a driver's word only where that is its choice. -/
theorem turn_eq_choice_or_run (c : Choice) (s : State) : turn c s = c ∨ ∃ u, u ≠ .rt ∧ turn c s = .run u := by
  rcases turn_cases c s with ⟨-, h⟩ | ⟨-, u, hu, -, h⟩ | ⟨-, -, -, h⟩
  · exact .inl h
  · exact .inr ⟨u, hu, h⟩
  · exact .inl h

theorem trace_succ (ch : Nat → Choice) (s : State) (n : Nat) :
    trace ch s (n + 1) =
      Outcome.stateOr (trace ch s n) (stepWith (turn (ch n) (trace ch s n)) (trace ch s n)) := rfl

end Sys2Proof.Machine
end

