-- ==== Sys2Proof/Tests/Slice0.lean ====
section
/-! SUPPORT. Tests: the ill-formed terms WellFormed refuses; every constructor's decoding from a word written out from
its encoding; vectors T, E and P of the spec's test chapter (file 95); and, for every obligation with hypotheses, a
theorem `witness_<Name>` that meets them, each clause at a state of its own. -/

namespace Sys2Proof.Tests

open Sys2Proof Sys2Proof.Machine

/-! ### Small states -/

/-- The parameters of the tests: the header is the one byte 0x48, CHECKSUM_MODE as given. -/
def params (mode : ChecksumMode) : BlockConfig := ⟨[0x48], mode, false⟩

/-- Reset, CHECKSUM_MODE = TABLE. -/
def s0 : State := State.resetWith (params .table)

/-- Reset, CHECKSUM_MODE = COMPUTED. -/
def c0 : State := State.resetWith (params .computed)

/-- A start state of the spec's table of RT vectors: (ST, HDR, IRQ_PEND, PRX_Q, CON_PEND). -/
def rtState (st : HandlerState) (hdr irq : Bool) (prx con : List Byte) : State :=
  { s0 with st := st, hdr := hdr, irqPend := irq, prxQ := prx, conPend := con }

/-- `rtState` after the RT word `q` has been executed. -/
def rtDone (q : ReqWord) (st : HandlerState) (hdr irq : Bool) (prx con : List Byte) : State :=
  { rtState st hdr irq prx con with rt := ⟨[q], []⟩ }

/-- Reset with the given bytes in PTX_PEND. -/
def ptxState (ptx : List Byte) : State := { s0 with ptxPend := ptx }

/-- `s` with RT's fault of vector T12. -/
def faulted (s : State) : State := { s with fault := some (.rxOutsideBurst 0x41) }

/-- The state an outcome leads to, if it leads to one. -/
def after : Host.Outcome State Fault Refusal → Option State
  | .next t => some t
  | .fault _ => none
  | .refused _ => none

/-! ### WellFormed -/

theorem test_wf_frameUnrec_refuses_codes :
    ∀ c ∈ [0x69, 0x70, 0x6E, 0x73, 0x76, 0x71, 0x7A], (Instr.frameUnrec c).wellFormed = false := by decide

theorem test_wf_frameUnrec_accepts_neighbours :
    ∀ c ∈ [0x00, 0x05, 0x49, 0x53, 0x68, 0x6A, 0x78, 0x7E, 0xE9, 0xFF], (Instr.frameUnrec c).wellFormed = true := by
  decide

theorem test_wf_reserved_refuses_begin_and_end :
    (Instr.reserved 0x00).wellFormed = false ∧ (Instr.reserved 0x01).wellFormed = false ∧
      (Instr.reserved 0x02).wellFormed = true ∧ (Instr.reserved 0xFF).wellFormed = true := by decide

/-! ### Decoding: OP in bits 9 and 8, D in bits 7 to 0 -/

theorem test_decode_hex : decode 0b0000011010 = .hex 0x1A ∧ decode 0b0011111111 = .hex 0xFF := by decide
theorem test_decode_frameI : decode 0b0101101001 = .frameI := by decide
theorem test_decode_frameP : decode 0b0101110000 = .frameP := by decide
theorem test_decode_frameN : decode 0b0101101110 = .frameN := by decide
theorem test_decode_frameS : decode 0b0101110011 = .frameS := by decide
theorem test_decode_frameV : decode 0b0101110110 = .frameV := by decide
theorem test_decode_frameQ : decode 0b0101110001 = .frameQ := by decide
theorem test_decode_frameZ : decode 0b0101111010 = .frameZ := by decide

/-- The spec's unrecognized vectors: 'x', 'I', 'S', 0x00, 0x05, 0x7E, 0xE9, 'h', 'j', 0xFF. -/
theorem test_decode_frameUnrec :
    decode 0b0101111000 = .frameUnrec 0x78 ∧ decode 0b0101001001 = .frameUnrec 0x49 ∧
      decode 0b0101010011 = .frameUnrec 0x53 ∧ decode 0b0100000000 = .frameUnrec 0x00 ∧
      decode 0b0100000101 = .frameUnrec 0x05 ∧ decode 0b0101111110 = .frameUnrec 0x7E ∧
      decode 0b0111101001 = .frameUnrec 0xE9 ∧ decode 0b0101101000 = .frameUnrec 0x68 ∧
      decode 0b0101101010 = .frameUnrec 0x6A ∧ decode 0b0111111111 = .frameUnrec 0xFF := by decide

theorem test_decode_rx : decode 0b1001000001 = .rx 0x41 ∧ decode 0b1011111111 = .rx 0xFF := by decide
theorem test_decode_begin : decode 0b1100000000 = .beginBurst := by decide
theorem test_decode_end : decode 0b1100000001 = .endBurst := by decide

theorem test_decode_reserved : decode 0b1100000010 = .reserved 0x02 ∧ decode 0b1111111111 = .reserved 0xFF := by decide

/-- A number with a bit above bit 9 is refused by name, on its own and as a table word. -/
theorem test_decodeNat_refuses_eleven_bits :
    decodeNat 1024 = .error (.notTenBits 1024) ∧ decodeTableWord 16 1024 = none ∧
      decodeTableWord 16 1023 = some (.reserved 0xFF) := by
  refine ⟨rfl, rfl, rfl⟩

/-! ### The spec's vectors -/

/-- The HEX vectors: 00, 01, 09, 0A, 0F, 10, 1A, 20, 7E, 80, 9F, A0, EF, FF. -/
theorem test_hex_vectors :
    [0x00, 0x01, 0x09, 0x0A, 0x0F, 0x10, 0x1A, 0x20, 0x7E, 0x80, 0x9F, 0xA0, 0xEF, 0xFF].map heResponse =
      [0x3030, 0x3031, 0x3039, 0x3041, 0x3046, 0x3130, 0x3141, 0x3230, 0x3745, 0x3830, 0x3946, 0x4130, 0x4546,
       0x4646] := by decide

/-- HEX answers on HE_OUT while RT is in a burst and holds, and after a fault it is not executed (T19). -/
theorem test_hex_never_holds_but_halts :
    (after (exec (.hex 0x1A) (rtState .servicing true false [0x12] [0x20]))).map (·.heOut) = some (some 0x3141) ∧
      after (exec (.hex 0x00) (faulted s0)) = some (faulted s0) := by
  refine ⟨rfl, rfl⟩

/-- What each FRAME word emits in TABLE and in COMPUTED mode. -/
theorem test_frame_vectors :
    ∀ r ∈ ([(.frameI, [0x7E, 0xFF, 0x06, 0x09, 0x01, 0x00, 0x02, 0xEF],
              [0x7E, 0xFF, 0x06, 0x09, 0x01, 0x00, 0x02, 0xFE, 0xEF, 0xEF]),
            (.frameP, [0x7E, 0xFF, 0x06, 0x0D, 0x01, 0x00, 0x00, 0xEF],
              [0x7E, 0xFF, 0x06, 0x0D, 0x01, 0x00, 0x00, 0xFE, 0xED, 0xEF]),
            (.frameN, [0x7E, 0xFF, 0x06, 0x01, 0x01, 0x00, 0x00, 0xEF],
              [0x7E, 0xFF, 0x06, 0x01, 0x01, 0x00, 0x00, 0xFE, 0xF9, 0xEF]),
            (.frameS, [0x7E, 0xFF, 0x06, 0x0E, 0x01, 0x00, 0x00, 0xFE, 0xEC, 0xEF],
              [0x7E, 0xFF, 0x06, 0x0E, 0x01, 0x00, 0x00, 0xFE, 0xEC, 0xEF]),
            (.frameV, [0x7E, 0xFF, 0x06, 0x06, 0x01, 0x00, 0x1E, 0xEF],
              [0x7E, 0xFF, 0x06, 0x06, 0x01, 0x00, 0x1E, 0xFE, 0xD6, 0xEF]),
            (.frameQ, [0x7E, 0xFF, 0x06, 0x47, 0x00, 0x00, 0x00, 0xEF],
              [0x7E, 0xFF, 0x06, 0x47, 0x00, 0x00, 0x00, 0xFE, 0xB4, 0xEF]),
            (.frameZ, [0x05], [0x05]), (.frameUnrec 0x78, [], [])] : List (Instr × List Byte × List Byte)),
      (after (exec r.1 s0)).map (·.ptxPend) = some r.2.1 ∧ (after (exec r.1 c0)).map (·.ptxPend) = some r.2.2 := by
  decide

/-- The spec's hold vector: `FRAME 'p'` waits while PTX_PEND = [EF]; ACCEPT_PTX then empties the buffer. -/
theorem test_frame_holds :
    after (exec .frameP (ptxState [0xEF])) = some (ptxState [0xEF]) ∧
      (after (stepWith .acceptPtx (ptxState [0xEF]))).map (fun t => (t.ptxPend, t.ptxOut)) = some ([], [0xEF]) := by
  refine ⟨rfl, rfl⟩

/-- T1, T2, T3 and T11. -/
theorem test_begin_vectors :
    after (exec .beginBurst (rtState .idle false true [] [])) = some (rtDone 0x300 .servicing false false [] []) ∧
      after (exec .beginBurst (rtState .idle false false [] [])) = some (rtDone 0x300 .servicing false false [] []) ∧
      after (exec .beginBurst (rtState .idle false true [0x41] [])) =
        some (rtDone 0x300 .servicing false false [0x41] []) ∧
      after (exec .beginBurst (rtState .servicing true false [] [])) =
        some { rtState .servicing true false [] [] with fault := some .nestedBurst } := by
  refine ⟨rfl, rfl, rfl, rfl⟩

/-- T4, T5, T9 and T20. -/
theorem test_rx_vectors :
    after (exec (.rx 0x41) (rtState .servicing false false [0x41] [])) =
        some (rtDone 0x241 .servicing true false [] [0x48, 0x34, 0x31, 0x20]) ∧
      after (exec (.rx 0x00) (rtState .servicing true false [0x00, 0xFF] [])) =
        some (rtDone 0x200 .servicing true false [0xFF] [0x30, 0x30, 0x20]) ∧
      after (exec (.rx 0x12) (rtState .servicing true false [0x12] [0x31, 0x20])) =
        some (rtState .servicing true false [0x12] [0x31, 0x20]) ∧
      after (exec (.rx 0x20) (rtState .servicing false false [0x20] [])) =
        some (rtDone 0x220 .servicing true false [] [0x48, 0x32, 0x30, 0x20]) := by
  refine ⟨rfl, rfl, rfl, rfl⟩

/-- T12, T13 and T14. -/
theorem test_rx_faults :
    after (exec (.rx 0x41) (rtState .idle false false [0x41] [])) =
        some { rtState .idle false false [0x41] [] with fault := some (.rxOutsideBurst 0x41) } ∧
      after (exec (.rx 0x41) (rtState .servicing false false [0x42] [])) =
        some { rtState .servicing false false [0x42] [] with fault := some (.rxMismatch 0x41) } ∧
      after (exec (.rx 0x41) (rtState .servicing false false [] [])) =
        some { rtState .servicing false false [] [] with fault := some (.rxMismatch 0x41) } := by
  refine ⟨rfl, rfl, rfl⟩

/-- T6, T7, T8 and T10. -/
theorem test_end_vectors :
    after (exec .endBurst (rtState .servicing true false [] [])) = some (rtDone 0x301 .idle false false [] []) ∧
      after (exec .endBurst (rtState .servicing false false [] [])) = some (rtDone 0x301 .idle false false [] []) ∧
      after (exec .endBurst (rtState .servicing true true [] [])) = some (rtDone 0x301 .idle false true [] []) ∧
      after (exec .endBurst (rtState .servicing true false [] [0x20])) =
        some (rtState .servicing true false [] [0x20]) := by
  refine ⟨rfl, rfl, rfl, rfl⟩

/-- T15 and T16. -/
theorem test_end_faults :
    after (exec .endBurst (rtState .idle false false [] [])) =
        some { rtState .idle false false [] [] with fault := some .endOutsideBurst } ∧
      after (exec .endBurst (rtState .servicing true false [0x7E] [])) =
        some { rtState .servicing true false [0x7E] [] with fault := some .endUndrained } := by
  refine ⟨rfl, rfl⟩

/-- T17 and T18: the fault comes before the hold. -/
theorem test_reserved_vectors :
    after (exec (.reserved 0x02) s0) = some { s0 with fault := some (.reservedRequest 0x02) } ∧
      after (exec (.reserved 0xFF) (rtState .servicing true false [] [0x20])) =
        some { rtState .servicing true false [] [0x20] with fault := some (.reservedRequest 0xFF) } := by
  refine ⟨rfl, rfl⟩

/-- E1, E2 (with the sequencer's next word), E3, E4 and E5. -/
theorem test_environment_vectors :
    (after (stepWith (.arrive 0x55) s0)).map (fun t => (t.irqPend, t.prxQ)) = some (true, [0x55]) ∧
      seqInstr (runChoices [.arrive 0x0A] (rtState .servicing false false [] [])) = some (.rx 0x0A) ∧
      (runChoices [.spurious, .seq, .seq] s0).conOut = [] ∧ (runChoices [.spurious, .seq, .seq] s0).st = .idle ∧
      (after (stepWith .acceptCon (rtState .idle false false [] [0x31, 0x41, 0x20]))).map
        (fun t => (t.conPend, t.conOut)) = some ([0x41, 0x20], [0x31]) ∧
      after (stepWith .acceptPtx s0) = some s0 := by
  refine ⟨rfl, rfl, rfl, rfl, rfl, rfl⟩

/-- The burst outputs of the spec, the split of an echoed `s` frame into two bursts among them. -/
theorem test_burstOut_vectors :
    burstOut [0x48] [] = [] ∧ burstOut [0x48] [0x00] = [0x48, 0x30, 0x30, 0x20] ∧
      burstOut [0x48] [0x00, 0x1A, 0xFF] = [0x48, 0x30, 0x30, 0x20, 0x31, 0x41, 0x20, 0x46, 0x46, 0x20] ∧
      [[0x7E, 0xFF, 0x06], [0x0E]].flatMap (burstOut [0x48]) =
        [0x48, 0x37, 0x45, 0x20, 0x46, 0x46, 0x20, 0x30, 0x36, 0x20, 0x48, 0x30, 0x45, 0x20] := by decide

/-- Lines of the syntax: a quoted character, a comment, a pseudo-operation of each kind, and text that is no line. -/
theorem test_assembleLine :
    assembleLine "FRAME 's'".toList = some [0x173] ∧ assembleLine "  RX 0x1a ; comment".toList = some [0x21A] ∧
      assembleLine "FRAME_Z".toList = some [0x17A] ∧
      assembleLine "BURST 0x00, 'A'".toList = some [0x300, 0x200, 0x241, 0x301] ∧
      assembleLine "HEX 0x100".toList = none ∧ assembleLine "JUMP 0x00".toList = none := by decide

/-! ### Witnesses of the obligations' hypotheses -/

theorem witness_DecodeOfEncode :
    (Instr.frameUnrec 0xFF).wellFormed = true ∧ decode (encode (.frameUnrec 0xFF)) = .frameUnrec 0xFF ∧
      (Instr.reserved 0x02).wellFormed = true ∧ decode (encode (.reserved 0x02)) = .reserved 0x02 := by decide

/-- The first and the last reserved word, and the last that is not. -/
theorem witness_EveryWordSelectsOneOperation :
    s0.fault = none ∧ 0x302 ≤ (0x302 : ReqWord).toNat ∧ 0x302 ≤ (0x3FF : ReqWord).toNat ∧
      ¬ 0x302 ≤ (0x301 : ReqWord).toNat ∧ decode 0x302 = .reserved 0x02 ∧ decode 0x301 = .endBurst := by decide

theorem witness_TableWordsOfTenBitsAreRead :
    decodeTableWord 16 0 = some (.hex 0) ∧ decodeTableWord 16 1023 = some (.reserved 0xFF) ∧
      decodeTableWord 16 1024 = none ∧ decodeTableWord 16 65535 = none := by
  refine ⟨rfl, rfl, rfl, rfl⟩

theorem witness_HexAnswersItsTwoDigits :
    s0.fault = none ∧ (after (exec (.hex 0xFF) s0)).map (fun t => (t.heOut, t.he)) = some (some 0x4646, ⟨[0xFF], []⟩) := by
  refine ⟨rfl, rfl⟩

/-- The last decimal digit and the first letter; an encoded byte's two characters. -/
theorem witness_HexEncodingIsUppercaseAndInvertible :
    (9 : Nibble).toNat ≤ 9 ∧ hexDigit 9 = 0x39 ∧ 10 ≤ (10 : Nibble).toNat ∧ hexDigit 10 = 0x41 ∧
      0x39 ∈ [(encodeHexByte 0x9A).1, (encodeHexByte 0x9A).2] ∧ parseHexPair 0x39 0x41 = some 0x9A ∧
      parseHexPair 0x39 0x61 = none := by decide

/-- FRAME_I in each clause: held, TABLE, COMPUTED. -/
theorem witness_FrameWordsEmitTheirFrames :
    (ptxState [0xEF]).ptxPend ≠ [] ∧
      (s0.fault = none ∧ s0.ptxPend = [] ∧ s0.cfg.checksumMode = .table) ∧
      (c0.fault = none ∧ c0.ptxPend = [] ∧ c0.cfg.checksumMode = .computed) ∧
      (after (exec .frameI c0)).map (·.fb) = some ⟨[0x169], []⟩ := by decide

theorem witness_UnrecognizedCommandEmitsNothing :
    (0x68 : Byte) ∉ commandCodes ∧ (0x6A : Byte) ∉ commandCodes ∧ (ptxState [0xEF]).ptxPend ≠ [] ∧
      s0.fault = none ∧ s0.ptxPend = [] ∧
      after (exec (.frameUnrec 0x68) s0) = some { s0 with fb := ⟨[0x168], []⟩ } := by decide

/-- Every command of the statement's list, the one with the 10-byte table frame at its bounds. -/
theorem witness_FramesFollowTheTableAndTheChecksum :
    Command.s ∈ [Command.i, .p, .n, .s, .v, .q] ∧ (frameRom .s).map List.length = some 10 ∧
      buildFrame .computed .s = frameRom .s ∧ (frameRom .q).map checksum = some 0xFEB4 := by decide

theorem witness_BeginEntersABurst :
    (rtState .idle false true [] [0x20]).conPend ≠ [] ∧
      (let s := rtState .servicing true false [] []; s.fault = none ∧ s.conPend = [] ∧ s.st = .servicing) ∧
      (let s := rtState .idle false false [0x41] []; s.fault = none ∧ s.conPend = [] ∧ s.st = .idle) := by decide

theorem witness_RxTranscodesOneByte :
    (rtState .servicing true false [0x12] [0x20]).conPend ≠ [] ∧
      (let s := rtState .idle false false [0x41] []; s.fault = none ∧ s.conPend = [] ∧ s.st = .idle) ∧
      (∀ prx ∈ [[], [0x42]], let s := rtState .servicing false false prx [];
        s.fault = none ∧ s.conPend = [] ∧ s.st = .servicing ∧ s.prxQ.head? ≠ some 0x41) ∧
      (∀ hdr ∈ [false, true], let s := rtState .servicing hdr false [0x41, 0xFF] [];
        s.fault = none ∧ s.conPend = [] ∧ s.st = .servicing ∧ s.prxQ = 0x41 :: [0xFF]) := by decide

theorem witness_EndLeavesTheBurst :
    (rtState .servicing true false [] [0x20]).conPend ≠ [] ∧
      (let s := rtState .idle false false [] []; s.fault = none ∧ s.conPend = [] ∧ s.st = .idle) ∧
      (let s := rtState .servicing true false [0x7E] [];
        s.fault = none ∧ s.conPend = [] ∧ s.st = .servicing ∧ s.prxQ ≠ []) ∧
      (let s := rtState .servicing true true [] [];
        s.fault = none ∧ s.conPend = [] ∧ s.st = .servicing ∧ s.prxQ = []) := by decide

theorem witness_ReservedWordRaises :
    (∀ d ∈ [0x02, 0xFF], (d : Byte) ≠ 0x00 ∧ d ≠ 0x01) ∧ (rtState .servicing true false [] [0x20]).fault = none := by
  decide

/-- A word that leaves each fault of the table, and one that leaves none. -/
theorem witness_FaultsAreExactlyTheTable :
    [exec (.reserved 0x02) s0, exec .beginBurst (rtState .servicing true false [] []),
      exec (.rx 0x41) (rtState .idle false false [0x41] []), exec (.rx 0x41) (rtState .servicing false false [0x42] []),
      exec (.rx 0x41) (rtState .servicing false false [] []), exec .endBurst (rtState .idle false false [] []),
      exec .endBurst (rtState .servicing true false [0x7E] []), exec (.hex 0x00) s0].map
        (fun o => (after o).map (·.fault)) =
      [some (some (.reservedRequest 0x02)), some (some .nestedBurst), some (some (.rxOutsideBurst 0x41)),
       some (some (.rxMismatch 0x41)), some (some (.rxMismatch 0x41)), some (some .endOutsideBurst),
       some (some .endUndrained), some none] := by decide

theorem witness_FaultIsPreciseAndSticky :
    (s0.fault = none ∧ ∃ t, exec (.rx 0x41) s0 = .next t ∧ t.fault ≠ none) ∧
      (faulted s0).fault ≠ none ∧
      (let s := faulted { s0 with conPend := [0x31, 0x20], ptxPend := [0x05] };
        s.fault ≠ none ∧ s.conPend = 0x31 :: [0x20] ∧ s.ptxPend = 0x05 :: [] ∧
          (runChoices [.acceptCon, .acceptPtx] s).conOut = [0x31]) := by
  refine ⟨⟨rfl, ⟨_, rfl, by decide⟩⟩, by decide, by decide⟩

theorem witness_HeldWordsWait :
    (Instr.endBurst.owner = .rt ∧ (∀ d, Instr.endBurst ≠ .reserved d) ∧
        (rtState .servicing true false [] [0x20]).conPend ≠ []) ∧
      (Instr.frameZ.owner = .fb ∧ (ptxState [0xEF]).ptxPend ≠ []) ∧
      (Instr.frameZ.owner = .fb ∧ s0.fault = none ∧ s0.ptxPend = []) ∧
      (Instr.beginBurst.owner = .rt ∧ s0.fault = none ∧ s0.conPend = []) ∧
      ((Instr.hex 0x00).owner = .he ∧ (rtState .servicing true false [] [0x20]).fault = none) := by
  refine ⟨⟨rfl, by simp, by decide⟩, by decide, by decide, by decide, by decide⟩

/-- An executed word of each unit, a word that waits, a word after a fault, and words that fault. -/
theorem witness_PositionsCountExecutedWords :
    (∀ i ∈ [Instr.hex 0x1A, .frameZ, .beginBurst], s0.fault = none ∧ wordHolds i s0 = false ∧
      (after (exec i s0)).map (fun t => (t.fault, (t.port i.owner).done)) = some (none, [encode i])) ∧
      HwUnit.he ≠ Instr.frameZ.owner ∧
      (wordHolds .frameZ (ptxState [0xEF]) = true ∧ wordHolds .endBurst (rtState .servicing true false [] [0x20]) = true ∧
        wordHolds (.reserved 0xFF) (rtState .servicing true false [] [0x20]) = false) ∧
      (faulted s0).fault ≠ none ∧
      (∀ i ∈ [Instr.reserved 0x02, .rx 0x41], (after (exec i s0)).map (fun t => (t.fault == s0.fault, t.port .rt)) =
        some (false, s0.port .rt)) := by decide

/-- A word of each unit that runs. -/
theorem witness_ChannelsAreSeparate :
    ((∃ t, exec .beginBurst s0 = .next t ∧ t.st = .servicing) ∧ Instr.beginBurst.owner = .rt) ∧
      ((∃ t, exec .frameZ s0 = .next t ∧ t.ptxPend = [0x05]) ∧ Instr.frameZ.owner = .fb) ∧
      ((∃ t, exec (.hex 0x1A) s0 = .next t ∧ t.heOut = some 0x3141) ∧ (Instr.hex 0x1A).owner = .he) := by
  refine ⟨⟨⟨_, rfl, rfl⟩, rfl⟩, ⟨⟨_, rfl, rfl⟩, rfl⟩, ⟨⟨_, rfl, rfl⟩, rfl⟩⟩

/-- Each unit with a word waiting and its step scheduled. -/
theorem witness_StepRunsTheDecodedWord :
    (let s := { s0 with sched := [.run .fb], fb := ⟨[], [0x169, 0x173]⟩ };
      s.nextChoice = .run .fb ∧ (s.port .fb).waiting = 0x169 :: [0x173] ∧
        (after (step s)).map (·.ptxPend) = some [0x7E, 0xFF, 0x06, 0x09, 0x01, 0x00, 0x02, 0xEF]) ∧
      (let s := { s0 with sched := [.run .he], he := ⟨[], [0x01A]⟩ };
        s.nextChoice = .run .he ∧ (s.port .he).waiting = 0x01A :: []) ∧
      (let s := { s0 with sched := [.run .rt], rt := ⟨[], [0x300]⟩ };
        s.nextChoice = .run .rt ∧ (s.port .rt).waiting = 0x300 :: []) := by decide

/-- The smallest and the largest word, on the state right after reset. -/
theorem witness_PlacedWordRunsNext :
    (after (step (s0.withFetchWord 16 0))).map (·.heOut) = some (some 0x3030) ∧
      (after (step (s0.withFetchWord 16 1023))).map (·.fault) = some (some (.reservedRequest 0xFF)) := by
  refine ⟨rfl, rfl⟩

/-- Each case of the sequencer, in the order of the statement. -/
theorem witness_SequencerChoosesItsWord :
    ((faulted s0).fault ≠ none ∧ (rtState .idle false true [] [0x20]).conPend ≠ []) ∧
      (let s := rtState .idle false false [] []; s.fault = none ∧ s.conPend = [] ∧ s.st = .idle ∧ s.irqPend = false) ∧
      (let s := rtState .idle false true [0x41] []; s.fault = none ∧ s.conPend = [] ∧ s.st = .idle ∧ s.irqPend = true) ∧
      (∀ hdr ∈ [false, true], let s := rtState .servicing hdr true [0x41] [];
        s.fault = none ∧ s.conPend = [] ∧ s.st = .servicing ∧ s.prxQ = 0x41 :: []) ∧
      (let s := rtState .servicing true true [] [];
        s.fault = none ∧ s.conPend = [] ∧ s.st = .servicing ∧ s.prxQ = []) := by decide

theorem witness_EnvironmentStepsQueueAndAccept :
    (rtState .idle false false [] [0x31, 0x41]).conPend = 0x31 :: [0x41] ∧ s0.conPend = [] ∧
      (ptxState [0xEF]).ptxPend = 0xEF :: [] ∧ s0.ptxPend = [] := by decide

theorem witness_HeOutIsTheHexStepsAnswer :
    ∃ t, step { s0 with sched := [.run .he], he := ⟨[], [0x01A]⟩ } = .next t ∧ t.heOut = some 0x3141 := ⟨_, rfl, rfl⟩

/-- A step in which neither stream may grow, and the console sink's own. -/
theorem witness_StreamsGrowOnlyBySinks :
    (∃ t, step { ptxState [0xEF] with sched := [.seq], conPend := [0x31] } = .next t ∧ t.conOut = [] ∧ t.ptxOut = []) ∧
      ({ ptxState [0xEF] with sched := [.seq] } : State).nextChoice ≠ .acceptCon ∧
      ({ ptxState [0xEF] with sched := [.seq] } : State).nextChoice ≠ .acceptPtx ∧
      (∃ t, step { s0 with sched := [.acceptCon], conPend := [0x31] } = .next t ∧ t.conOut = [0x31]) := by
  refine ⟨⟨_, rfl, rfl, rfl⟩, by decide, by decide, ⟨_, rfl, rfl⟩⟩

theorem witness_IrqNestingIsUnread :
    ∃ t, stepWith .seq (rtState .idle false true [0x41] []) = .next t ∧ t.st = .servicing := ⟨_, rfl, rfl⟩

/-- Both channels busy, a word waiting at every unit, RT in a burst: no step raises a fault, and each step moves; and a
driver's word that would raise one. -/
theorem witness_StepsOfDifferentChannelsCommute :
    (let s := { rtState .servicing false false [0x41] [] with
        fb := ⟨[], [0x169]⟩, he := ⟨[], [0x01A]⟩, rt := ⟨[0x300], [0x241]⟩ };
      PortsOwned s ∧ wordOwner 0x173 ≠ .rt ∧
        ∀ c ∈ [Choice.arrive 0x42, .spurious, .acceptCon, .seq, .run .rt],
          (runChoices [c] s).fault = s.fault ∧ runChoices [c, .run .fb] s = runChoices [.run .fb, c] s) ∧
      (let s := { ptxState [0xEF] with conPend := [0x20], rt := ⟨[], [0x301]⟩, he := ⟨[], [0x01A]⟩ };
        PortsOwned s ∧ (runChoices [.run .rt] s).fault = s.fault ∧ (runChoices [.acceptCon, .acceptPtx] s).conOut = [0x20]) ∧
      (runChoices [.run .rt] { s0 with rt := ⟨[], [0x301]⟩ }).fault = some .endOutsideBurst := by decide

/-- A block that is not in its reset state, and what a reset leaves of it. -/
theorem witness_ResetLeavesTheResetValues :
    let s := faulted (rtState .servicing true true [0x41] [0x20])
    s ≠ s0 ∧ s.resetBlock ∈ [State.resetWith s.cfg, s.resetBlock] ∧ s.resetBlock = s0 := by decide

/-- A state in the middle of a burst that every invariant holds in, with a step out of it. -/
def midRun : State :=
  runChoices [.present 0x17A, .arrive 0x41, .arrive 0x42, .seq, .seq, .run .fb, .acceptCon, .acceptPtx, .arrive 0x43] s0

theorem witness_ResetMeetsTheInvariants :
    State.resetWith (params .computed) ∈ [State.resetWith (params .computed)] ∧ Quiescent c0 := by decide

theorem witness_HandlerSoundIsKept :
    (HandlerSound { midRun with sched := [.seq] } ∧ midRun.st = .servicing ∧ midRun.prxQ = [0x42, 0x43] ∧
      ∃ t, step { midRun with sched := [.seq] } = .next t) ∧
    (HandlerSound { rtState .idle false true [0x41] [] with sched := [.seq] } ∧
      ∃ t, step { rtState .idle false true [0x41] [] with sched := [.seq] } = .next t ∧ t.st = .servicing) := by
  refine ⟨⟨by decide, by decide, by decide, ⟨_, rfl⟩⟩, by decide, ⟨_, rfl, rfl⟩⟩

theorem witness_PortsOwnedIsKept :
    PortsOwned { midRun with sched := [.present 0x300] } ∧ midRun.rt.done = [0x300, 0x241] ∧ midRun.fb.done = [0x17A] ∧
      ∃ t, step { midRun with sched := [.present 0x300] } = .next t ∧ t.rt.waiting = [0x300] := by
  refine ⟨by decide, by decide, by decide, ⟨_, rfl, by decide⟩⟩

theorem witness_PtxLawIsKept :
    PtxLaw { midRun with sched := [.run .fb], fb := ⟨[0x17A], [0x169]⟩ } ∧ midRun.ptxOut = [0x05] ∧
      ∃ t, step { midRun with sched := [.run .fb], fb := ⟨[0x17A], [0x169]⟩ } = .next t ∧ t.ptxPend ≠ [] := by
  refine ⟨by decide, by decide, ⟨_, rfl, by decide⟩⟩

theorem witness_ConLawIsKept :
    ConLaw { midRun with sched := [.acceptCon] } ∧ midRun.conOut = [0x48] ∧ midRun.conPend = [0x34, 0x31, 0x20] ∧
      ∃ t, step { midRun with sched := [.acceptCon] } = .next t ∧ t.conOut = [0x48, 0x34] := by
  refine ⟨by decide, by decide, by decide, ⟨_, rfl, by decide⟩⟩

theorem witness_EveryByteIsAccountedFor :
    ConLaw { midRun with sched := [.arrive 0x44] } ∧ (burstsOf midRun.rt.done).flatten ++ midRun.prxQ = [0x41, 0x42, 0x43] ∧
      ∃ t, step { midRun with sched := [.arrive 0x44] } = .next t ∧ t.prxQ = [0x42, 0x43, 0x44] := by
  refine ⟨by decide, by decide, ⟨_, rfl, by decide⟩⟩

theorem witness_EveryPresentedWordIsAccountedFor :
    PortsOwned { midRun with sched := [.present 0x169] } ∧ PtxLaw { midRun with sched := [.present 0x169] } ∧
      ∃ t, step { midRun with sched := [.present 0x169] } = .next t ∧ t.fb.done ++ t.fb.waiting = [0x17A, 0x169] := by
  refine ⟨by decide, by decide, ⟨_, rfl, by decide⟩⟩

/-- A whole burst of one byte, run to its end: the block is quiescent, and both streams are as they must be. -/
def wholeRun : List Choice :=
  [.present 0x17A, .present 0x01A, .arrive 0x41, .seq] ++ drainSteps [0x48] [0x41] ++ [.run .fb, .run .he, .acceptPtx]

theorem witness_ConsoleStreamIsTheBurstsOutput :
    Quiescent (runChoices wholeRun s0) ∧ (runChoices wholeRun s0).conOut = [0x48, 0x34, 0x31, 0x20] ∧
      arrivalsOf wholeRun = [0x41] := by decide

theorem witness_PeripheralStreamIsTheFrames :
    Quiescent (runChoices wholeRun s0) ∧ (runChoices wholeRun s0).ptxOut = [0x05] ∧
      presentedTo .fb wholeRun = [0x17A] ∧ presentedTo .he wholeRun = [0x01A] := by decide

/-- Bursts of no byte and of two, before and after the header. -/
theorem witness_BurstDrainsEveryByte :
    ∀ hdr ∈ [false, true], ∀ prx ∈ [[], [0x00, 0xFF]], let s := rtState .servicing hdr true prx [];
      s.fault = none ∧ s.st = .servicing ∧ s.conPend = [] ∧
        (runChoices (drainSteps s.pendingHeader prx) s).prxQ = [] := by decide

theorem witness_LateArrivalCausesAnEmptyBurst :
    let s := rtState .servicing false false [] []
    s.fault = none ∧ s.st = .servicing ∧ s.conPend = [] ∧ s.prxQ = [] ∧
      (runChoices (.arrive 0x41 :: drainSteps s.pendingHeader [0x41]) s).irqPend = true := by decide

theorem witness_PendingInterruptIsTakenAfterEnd :
    let s := rtState .servicing true true [] []
    s.fault = none ∧ s.st = .servicing ∧ s.conPend = [] ∧ s.prxQ = [] ∧ s.irqPend = true ∧
      (runChoices [.seq, .seq] s).rt.done = [0x301, 0x300] := by decide

/-- The largest byte, the first and the last printable character, and a character that is not printable. -/
theorem witness_AssemblyLinesStandForTheirWords :
    takeByte ['0', 'x', 'F', 'F', ';'] = some (0xFF, [';']) ∧ 0x20 ≤ ' '.toNat ∧ '~'.toNat ≤ 0x7E ∧
      takeByte ['\'', ' ', '\''] = some (0x20, []) ∧ takeByte ['\'', '~', '\''] = some (0x7E, []) ∧
      takeByte ['\'', '\t', '\''] = none := by decide

theorem witness_DeadSinkHoldsItsUnit :
    (Choice.acceptCon ∉ [Choice.seq, .acceptPtx, .arrive 0x41] ∧ (rtState .servicing true false [] [0x20]).conPend ≠ []) ∧
      (Choice.acceptPtx ∉ [Choice.run .fb, .acceptCon] ∧ (ptxState [0xEF]).ptxPend ≠ []) := by decide

theorem witness_QuiescentBlockStaysStill :
    Quiescent s0 ∧ s0.rt.waiting = [] ∧
      ∀ c ∈ [Choice.seq, .acceptCon, .acceptPtx, .run .he, .run .fb, .run .rt],
        (∀ b, c ≠ .arrive b) ∧ c ≠ .spurious ∧ ∀ q, c ≠ .present q := by
  refine ⟨by decide, rfl, ?_⟩
  intro c hc
  simp only [List.mem_cons, List.not_mem_nil, or_false] at hc
  rcases hc with rfl | rfl | rfl | rfl | rfl | rfl <;> simp

/-- For each kind of step, a state in which it is enabled and one in which it is not. -/
theorem witness_OnlyEnabledStepsChangeTheBlock :
    (∀ c ∈ [Choice.acceptCon, .acceptPtx, .seq, .run .he, .run .fb, .run .rt], enabled c s0 = false) ∧
      enabled .acceptCon (rtState .idle false false [] [0x20]) = true ∧ enabled .acceptPtx (ptxState [0xEF]) = true ∧
      enabled .seq (rtState .idle false true [] []) = true ∧
      (let s := { s0 with he := ⟨[], [0x01A]⟩, fb := ⟨[], [0x169]⟩, rt := ⟨[], [0x301]⟩ };
        PortsOwned s ∧ (∀ u ∈ [HwUnit.he, .fb, .rt], enabled (.run u) s = true) ∧
          (after (stepWith (.run .fb) s)).map (fun t => (t.fault, t.fb.index)) = some (none, 1) ∧
          (after (stepWith (.run .rt) s)).map (fun t => (t.fault, t.rt.index)) = some (some .endOutsideBurst, 0)) := by
  decide

/-- Every agent steps in turn; nothing comes from outside. -/
def roundRobin (n : Nat) : Choice :=
  if n % 5 = 0 then .acceptCon else if n % 5 = 1 then .acceptPtx else if n % 5 = 2 then .seq
  else if n % 5 = 3 then .run .he else .run .fb

/-- A byte received and signalled, a FRAME and a HEX word presented. -/
def busy : State := { rtState .idle false true [0x41] [] with fb := ⟨[], [0x169]⟩, he := ⟨[], [0x01A]⟩ }

theorem roundRobin_fair (n k : Nat) (hk : k < 5) : n ≤ 5 * n + k ∧ (5 * n + k) % 5 = k := by omega

theorem roundRobin_inside (n : Nat) :
    (∀ b, roundRobin n ≠ .arrive b) ∧ roundRobin n ≠ .spurious ∧ ∀ q, roundRobin n ≠ .present q := by
  unfold roundRobin
  split
  · simp
  · split
    · simp
    · split
      · simp
      · split <;> simp

theorem roundRobin_bySequencerOnly (m : Nat) : bySequencerOnly (roundRobin m) :=
  fun q h => absurd h ((roundRobin_inside m).2.2 q)

theorem roundRobin_sinkFair (s : State) : SinkFair roundRobin s := fun n =>
  ⟨fun _ => ⟨5 * n + 0, (roundRobin_fair n 0 (by omega)).1, by simp [roundRobin]⟩,
    fun _ => ⟨5 * n + 1, (roundRobin_fair n 1 (by omega)).1, by simp [roundRobin, (roundRobin_fair n 1 (by omega)).2]⟩⟩

theorem roundRobin_seqFair (s : State) : SeqFair roundRobin s := fun n _ =>
  ⟨5 * n + 2, (roundRobin_fair n 2 (by omega)).1, by simp [roundRobin, (roundRobin_fair n 2 (by omega)).2]⟩

theorem witness_FairRunsReachQuiescence :
    busy.fault = none ∧ HandlerSound busy ∧ PortsOwned busy ∧ busy.rt.waiting = [] ∧
      (∀ m, bySequencerOnly (roundRobin m)) ∧ InputsEndAt roundRobin 0 ∧ SinkFair roundRobin busy ∧
      SeqFair roundRobin busy := by
  refine ⟨by decide, by decide, by decide, rfl, roundRobin_bySequencerOnly, fun m _ => roundRobin_inside m,
    roundRobin_sinkFair busy, roundRobin_seqFair busy⟩

/-- A state in the middle of a run: a byte received, a FRAME word presented, a burst open. -/
theorem witness_RunsFromResetReachQuiescence :
    (∀ c ∈ [Choice.arrive 0x41, .present 0x169, .seq], bySequencerOnly c) ∧ (∀ m, bySequencerOnly (roundRobin m)) ∧
      InputsEndAt roundRobin 0 ∧
      (let s := runChoices [.arrive 0x41, .present 0x169, .seq] (State.resetWith (params .table));
        s.st = .servicing ∧ SinkFair roundRobin s ∧ SeqFair roundRobin s) := by
  refine ⟨?_, roundRobin_bySequencerOnly, fun m _ => roundRobin_inside m, rfl, roundRobin_sinkFair _, roundRobin_seqFair _⟩
  intro c hc q h
  subst h
  simp only [List.mem_cons, List.not_mem_nil, or_false, reduceCtorEq, false_or, Choice.present.injEq] at hc
  subst hc
  decide

end Sys2Proof.Tests
end

/-! PROOF. O26: no step reads IRQ_NESTING (R17).  Every operation of the model gives the same result whether the
parameter is changed before it or after it; the steps are composed of such operations. -/

namespace Sys2Proof.Machine

/-- `s` with the parameter IRQ_NESTING replaced (R17). -/
def State.withNesting (s : State) (b : Bool) : State := { s with cfg := { s.cfg with irqNesting := b } }

/-- A step that leads to the same state, up to IRQ_NESTING itself, whatever IRQ_NESTING is. -/
def IgnoresNesting (f : State → Host.Outcome State Fault Refusal) : Prop :=
  ∀ (b : Bool) (s t : State), f s = .next t → f (s.withNesting b) = .next (t.withNesting b)

/-! ### What the parts of a step see of the changed state -/

@[simp] theorem State.withNesting_fault (s : State) (b : Bool) : (s.withNesting b).fault = s.fault := rfl
@[simp] theorem State.withNesting_conHeld (s : State) (b : Bool) : (s.withNesting b).conHeld = s.conHeld := rfl
@[simp] theorem State.withNesting_ptxHeld (s : State) (b : Bool) : (s.withNesting b).ptxHeld = s.ptxHeld := rfl
@[simp] theorem State.withNesting_fetch (s : State) (b : Bool) (u : HwUnit) :
    (s.withNesting b).fetch u = s.fetch u := by
  cases u <;> rfl
@[simp] theorem seqInstr_withNesting (s : State) (b : Bool) : seqInstr (s.withNesting b) = seqInstr s := rfl

theorem acceptCon_of_nil {s : State} (h : s.conPend = []) : s.acceptCon = s := by
  simp [State.acceptCon, h]

theorem acceptCon_of_cons {s : State} {v : Byte} {rest : List Byte} (h : s.conPend = v :: rest) :
    s.acceptCon = { s with conOut := s.conOut ++ [v], conPend := rest } := by
  simp [State.acceptCon, h]

theorem acceptPtx_of_nil {s : State} (h : s.ptxPend = []) : s.acceptPtx = s := by
  simp [State.acceptPtx, h]

theorem acceptPtx_of_cons {s : State} {v : Byte} {rest : List Byte} (h : s.ptxPend = v :: rest) :
    s.acceptPtx = { s with ptxOut := s.ptxOut ++ [v], ptxPend := rest } := by
  simp [State.acceptPtx, h]

theorem State.acceptCon_withNesting (s : State) (b : Bool) :
    (s.withNesting b).acceptCon = s.acceptCon.withNesting b := by
  cases h : s.conPend with
  | nil =>
    rw [acceptCon_of_nil h]
    exact acceptCon_of_nil h
  | cons v rest =>
    rw [acceptCon_of_cons h]
    exact acceptCon_of_cons h

theorem State.acceptPtx_withNesting (s : State) (b : Bool) :
    (s.withNesting b).acceptPtx = s.acceptPtx.withNesting b := by
  cases h : s.ptxPend with
  | nil =>
    rw [acceptPtx_of_nil h]
    exact acceptPtx_of_nil h
  | cons v rest =>
    rw [acceptPtx_of_cons h]
    exact acceptPtx_of_cons h

theorem State.present_withNesting (s : State) (b : Bool) (q : ReqWord) :
    (s.withNesting b).present q = (s.present q).withNesting b := by
  unfold State.present
  cases wordOwner q <;> rfl

/-! ### The skeleton of a word -/

theorem unitStep_ignoresNesting {held : State → Bool} {act : State → State}
    (hheld : ∀ s b, held (s.withNesting b) = held s)
    (hact : ∀ s b, act (s.withNesting b) = (act s).withNesting b) :
    IgnoresNesting fun s => unitStep (held s) s act := by
  intro b s t h
  by_cases hw : s.fault ≠ none ∨ held s = true
  · obtain rfl : s = t := by simpa [unitStep_waits hw] using h
    exact unitStep_waits (by simpa [hheld] using hw)
  · obtain ⟨hf, hh⟩ : s.fault = none ∧ held s = false := by simpa using hw
    obtain rfl : act s = t := by simpa [unitStep_runs hf hh] using h
    rw [← hact]
    exact unitStep_runs hf ((hheld s b).trans hh)

theorem checked_withNesting {check : State → Option Fault} {act : State → State}
    (hcheck : ∀ s b, check (s.withNesting b) = check s)
    (hact : ∀ s b, act (s.withNesting b) = (act s).withNesting b) (s : State) (b : Bool) :
    checked check act (s.withNesting b) = (checked check act s).withNesting b := by
  unfold checked
  rw [hcheck, hact]
  cases check s <;> rfl

/-! ### The words and the agents -/

/-- FB reads CHECKSUM_MODE and RT reads RX_HEADER; no word reads the third parameter. -/
theorem exec_ignoresNesting (i : Instr) : IgnoresNesting (exec i) := by
  cases hc : frameCommand i with
  | some c =>
    rw [show exec i = frameStep i c from funext (exec_frame hc)]
    exact unitStep_ignoresNesting State.withNesting_ptxHeld fun _ _ => rfl
  | none =>
    cases i with
    | hex v => exact unitStep_ignoresNesting (fun _ _ => rfl) fun _ _ => rfl
    | beginBurst =>
      exact unitStep_ignoresNesting State.withNesting_conHeld (checked_withNesting (fun _ _ => rfl) fun _ _ => rfl)
    | rx v =>
      exact unitStep_ignoresNesting State.withNesting_conHeld (checked_withNesting (fun _ _ => rfl) fun _ _ => rfl)
    | endBurst =>
      exact unitStep_ignoresNesting State.withNesting_conHeld (checked_withNesting (fun _ _ => rfl) fun _ _ => rfl)
    | reserved d => exact unitStep_ignoresNesting (fun _ _ => rfl) fun _ _ => rfl
    | _ => simp [frameCommand] at hc

theorem runUnit_ignoresNesting (u : HwUnit) : IgnoresNesting (runUnit u) := by
  intro b s t h
  unfold runUnit at h ⊢
  rw [State.withNesting_fetch]
  cases hq : s.fetch u with
  | none =>
    obtain rfl : s = t := by simpa [hq] using h
    rfl
  | some q => exact exec_ignoresNesting (decode q) b s t (by simpa [hq] using h)

theorem seqStep_ignoresNesting : IgnoresNesting seqStep := by
  intro b s t h
  unfold seqStep at h ⊢
  rw [seqInstr_withNesting]
  cases hi : seqInstr s with
  | none =>
    obtain rfl : s = t := by simpa [hi] using h
    rfl
  | some i => exact exec_ignoresNesting i b (s.issueRt (encode i)) t (by simpa [hi] using h)

/-- A step that always leads to the state `act s` ignores IRQ_NESTING when `act` does. -/
theorem next_ignoresNesting {act : State → State} (hact : ∀ s b, act (s.withNesting b) = (act s).withNesting b) :
    IgnoresNesting fun s => .next (act s) := by
  intro b s t h
  obtain rfl : act s = t := by simpa using h
  exact congrArg _ (hact s b)

theorem agentStep_ignoresNesting (c : Choice) : IgnoresNesting (agentStep c) := by
  cases c with
  | arrive v => exact next_ignoresNesting fun _ _ => rfl
  | spurious => exact next_ignoresNesting fun _ _ => rfl
  | acceptCon => exact next_ignoresNesting State.acceptCon_withNesting
  | acceptPtx => exact next_ignoresNesting State.acceptPtx_withNesting
  | present q => exact next_ignoresNesting fun s b => s.present_withNesting b q
  | run u => exact runUnit_ignoresNesting u
  | seq => exact seqStep_ignoresNesting

/-- Settles O26: dropping the response leaves the parameters alone, and no agent's step reads IRQ_NESTING. -/
theorem irqNestingIsUnread : Obligations.IrqNestingIsUnread := by
  unfold Obligations.IrqNestingIsUnread
  intro c s t b h
  exact agentStep_ignoresNesting c b s.dropResponse t h

end Sys2Proof.Machine

/-! PROOF. O17: what a word does to the request lists (R21).  Each operation is the skeleton `unitStep` under its own
hold, so a word waits, or raises a fault, or completes, and only a completed word moves a position. -/

namespace Sys2Proof.Machine

/-- The word of `i` has run to its end: no fault is left, and its own unit alone has moved past it (R21). -/
def WordCompletes (i : Instr) (s t : State) : Prop :=
  t.fault = none ∧ ∀ u, t.port u = if u = i.owner then (s.port u).retire (encode i) else s.port u

@[simp] theorem State.raise_port (s : State) (f : Fault) (u : HwUnit) : (s.raise f).port u = s.port u := by
  cases u <;> rfl

theorem checked_raises_or_completes {i : Instr} {s : State} {check : State → Option Fault} {act : State → State}
    (hact : WordCompletes i s (act s)) :
    (∃ f, checked check act s = s.raise f) ∨ WordCompletes i s (checked check act s) := by
  rcases checked_cases check act s with ⟨f, -, hr⟩ | ⟨-, hr⟩
  · exact .inl ⟨f, hr⟩
  · exact .inr (hr ▸ hact)

theorem wordHolds_frame {i : Instr} {c : Command} (h : frameCommand i = some c) (s : State) :
    wordHolds i s = s.ptxHeld := by
  cases i <;> simp [frameCommand] at h <;> rfl

theorem owner_of_frameCommand {i : Instr} {c : Command} (h : frameCommand i = some c) : i.owner = .fb := by
  cases i <;> simp [frameCommand] at h <;> rfl

/-- Every operation is the skeleton under its own hold (R45, R131), with an effect that raises a fault or completes. -/
theorem exec_eq_unitStep (i : Instr) :
    ∃ act : State → State, (∀ s, exec i s = unitStep (wordHolds i s) s act) ∧
      ∀ s, s.fault = none → (∃ f, act s = s.raise f) ∨ WordCompletes i s (act s) := by
  cases hc : frameCommand i with
  | some c =>
    refine ⟨fun s => (s.emitPtx (frameBytes s.cfg.checksumMode c)).retireFb (encode i), fun s => ?_,
      fun s hf => .inr ⟨hf, fun u => ?_⟩⟩
    · rw [exec_frame hc, wordHolds_frame hc, frameStep]
    · rw [owner_of_frameCommand hc]
      cases u <;> rfl
  | none =>
    cases i with
    | hex v =>
      exact ⟨fun s => (s.respond (heResponse v)).retireHe (encode (.hex v)), fun _ => rfl,
        fun s hf => .inr ⟨hf, fun u => by cases u <;> rfl⟩⟩
    | beginBurst =>
      exact ⟨_, fun _ => rfl, fun s hf => checked_raises_or_completes ⟨hf, fun u => by cases u <;> rfl⟩⟩
    | rx b =>
      exact ⟨_, fun _ => rfl, fun s hf => checked_raises_or_completes ⟨hf, fun u => by cases u <;> rfl⟩⟩
    | endBurst =>
      exact ⟨_, fun _ => rfl, fun s hf => checked_raises_or_completes ⟨hf, fun u => by cases u <;> rfl⟩⟩
    | reserved d =>
      exact ⟨fun s => s.raise (.reservedRequest d), fun _ => rfl, fun s _ => .inl ⟨_, rfl⟩⟩
    | _ => simp [frameCommand] at hc

/-- What a word can do, as far as the request lists and FAULT can tell: wait, raise a fault, or complete. -/
theorem exec_position_cases {i : Instr} {s t : State} (h : exec i s = .next t) :
    ((s.fault ≠ none ∨ wordHolds i s = true) ∧ t = s) ∨
    (s.fault = none ∧ wordHolds i s = false ∧ ((∃ f, t = s.raise f) ∨ WordCompletes i s t)) := by
  obtain ⟨act, hexec, hact⟩ := exec_eq_unitStep i
  rw [hexec] at h
  by_cases hw : s.fault ≠ none ∨ wordHolds i s = true
  · exact .inl ⟨hw, by simpa [unitStep_waits hw, eq_comm] using h⟩
  · obtain ⟨hf, hh⟩ : s.fault = none ∧ wordHolds i s = false := by simpa using hw
    obtain rfl : act s = t := by simpa [unitStep_runs hf hh] using h
    exact .inr ⟨hf, hh, hact s hf⟩

/-- A word leaves a unit's list alone, or, in its own unit's list, is retired. -/
theorem exec_port {i : Instr} {s t : State} (h : exec i s = .next t) (u : HwUnit) :
    t.port u = s.port u ∨ (u = i.owner ∧ t.port u = (s.port u).retire (encode i)) := by
  rcases exec_position_cases h with ⟨-, rfl⟩ | ⟨-, -, ⟨f, rfl⟩ | ⟨-, hport⟩⟩
  · exact .inl rfl
  · exact .inl (s.raise_port f u)
  · by_cases hu : u = i.owner
    · exact .inr ⟨hu, by rw [hport, if_pos hu]⟩
    · exact .inl (by rw [hport, if_neg hu])

/-- Settles O17: the four clauses are read off the three things a word can do to the lists. -/
theorem positionsCountExecutedWords : Obligations.PositionsCountExecutedWords := by
  unfold Obligations.PositionsCountExecutedWords
  intro i s t h
  rcases exec_position_cases h with ⟨hw, rfl⟩ | ⟨hf, hh, ⟨f, rfl⟩ | ⟨htf, hport⟩⟩
  case inl => exact ⟨fun _ _ => rfl, fun _ => rfl, fun _ _ => rfl, fun hf hh _ => by simp [hf, hh] at hw⟩
  case inr.inl =>
    exact ⟨fun u _ => s.raise_port f u, fun hw => by simp [hf, hh] at hw, fun _ => s.raise_port f,
      fun _ _ hn => by simp at hn⟩
  case inr.inr =>
    have hown : t.port i.owner = (s.port i.owner).retire (encode i) := by rw [hport, if_pos rfl]
    refine ⟨fun u hu => by rw [hport, if_neg hu], fun hw => by simp [hf, hh] at hw,
      fun hne => absurd (htf.trans hf.symm) hne, fun _ _ _ => ?_⟩
    simp [hown, Port.index]

end Sys2Proof.Machine

/-! PROOF. O25 and O24: what the agents' steps leave alone (R28, R32, R33).  A unit's step and the sequencer's are one
word of `exec`, and a word writes neither the parameters nor a stream; HE_OUT is dropped before a step, and only HEX
answers. -/

namespace Sys2Proof.Machine

/-! ### The agents that execute a word -/

/-- A unit's step changes nothing or executes the head of its list. -/
theorem runUnit_next {u : HwUnit} {s t : State} (h : runUnit u s = .next t) :
    t = s ∨ ∃ q rest, (s.port u).waiting = q :: rest ∧ exec (decode q) s = .next t := by
  rcases runUnit_cases u s with ⟨-, hr⟩ | ⟨q, rest, hq, hr⟩
  · exact .inl (by simpa [hr, eq_comm] using h)
  · exact .inr ⟨q, rest, hq, hr ▸ h⟩

/-- The sequencer's step changes nothing or executes a word of RT, which it issues first. -/
theorem seqStep_next {s t : State} (h : seqStep s = .next t) :
    t = s ∨ ∃ i, i.owner = .rt ∧ exec i (s.issueRt (encode i)) = .next t := by
  unfold seqStep at h
  rcases seqInstr_cases s with ⟨hi, -⟩ | ⟨-, -, ⟨hi, -⟩ | ⟨b, rest, hi, -⟩ | ⟨hi, -⟩⟩ <;> rw [hi] at h
  · exact .inl (by simpa [eq_comm] using h)
  · exact .inr ⟨_, rfl, h⟩
  · exact .inr ⟨_, rfl, h⟩
  · exact .inr ⟨_, rfl, h⟩

/-! ### The streams and the configuration -/

/-- The configuration and both observation streams are as they were. -/
def KeepsStreams (s t : State) : Prop := t.cfg = s.cfg ∧ t.conOut = s.conOut ∧ t.ptxOut = s.ptxOut

/-- The configuration is as it was, and a stream has grown at most at its end, in a step of its own sink. -/
def StreamsGrow (c : Choice) (s t : State) : Prop :=
  t.cfg = s.cfg ∧ s.conOut <+: t.conOut ∧ s.ptxOut <+: t.ptxOut ∧
    (c ≠ .acceptCon → t.conOut = s.conOut) ∧ (c ≠ .acceptPtx → t.ptxOut = s.ptxOut)

theorem KeepsStreams.grow {s t : State} (h : KeepsStreams s t) (c : Choice) : StreamsGrow c s t := by
  obtain ⟨hcfg, hcon, hptx⟩ := h
  exact ⟨hcfg, hcon ▸ List.prefix_rfl, hptx ▸ List.prefix_rfl, fun _ => hcon, fun _ => hptx⟩

theorem State.conOut_prefix_acceptCon (s : State) : s.conOut <+: s.acceptCon.conOut := by
  rcases acceptCon_cases s with ⟨-, h⟩ | ⟨b, rest, -, h⟩ <;> simp [h]

theorem State.ptxOut_prefix_acceptPtx (s : State) : s.ptxOut <+: s.acceptPtx.ptxOut := by
  rcases acceptPtx_cases s with ⟨-, h⟩ | ⟨b, rest, -, h⟩ <;> simp [h]

/-- A word writes the pending buffers, never a stream: none of the seven things it can do touches one. -/
theorem exec_keepsStreams {i : Instr} {s t : State} (h : exec i s = .next t) : KeepsStreams s t := by
  rcases exec_cases h with rfl | ⟨f, -, -, rfl⟩ | ⟨v, -, -, rfl⟩ | ⟨c, -, -, -, rfl⟩ | ⟨-, -, -, -, rfl⟩ |
    ⟨b, -, -, -, -, -, rfl⟩ | ⟨-, -, -, -, -, rfl⟩ <;> exact ⟨rfl, rfl, rfl⟩

theorem runUnit_keepsStreams {u : HwUnit} {s t : State} (h : runUnit u s = .next t) : KeepsStreams s t := by
  rcases runUnit_next h with rfl | ⟨q, rest, -, he⟩
  · exact ⟨rfl, rfl, rfl⟩
  · exact exec_keepsStreams he

theorem seqStep_keepsStreams {s t : State} (h : seqStep s = .next t) : KeepsStreams s t := by
  rcases seqStep_next h with rfl | ⟨i, -, he⟩
  · exact ⟨rfl, rfl, rfl⟩
  · simpa [KeepsStreams] using exec_keepsStreams he

theorem agentStep_streamsGrow {c : Choice} {s t : State} (h : agentStep c s = .next t) : StreamsGrow c s t := by
  cases c with
  | run u => exact (runUnit_keepsStreams h).grow _
  | seq => exact (seqStep_keepsStreams h).grow _
  | arrive b =>
    obtain rfl : s.arrive b = t := by simpa [agentStep] using h
    exact KeepsStreams.grow ⟨rfl, rfl, rfl⟩ _
  | spurious =>
    obtain rfl : s.spurious = t := by simpa [agentStep] using h
    exact KeepsStreams.grow ⟨rfl, rfl, rfl⟩ _
  | present q =>
    obtain rfl : s.present q = t := by simpa [agentStep] using h
    exact KeepsStreams.grow ⟨by simp, by simp, by simp⟩ _
  | acceptCon =>
    obtain rfl : s.acceptCon = t := by simpa [agentStep] using h
    exact ⟨by simp, s.conOut_prefix_acceptCon, by simp, fun hc => absurd rfl hc, by simp⟩
  | acceptPtx =>
    obtain rfl : s.acceptPtx = t := by simpa [agentStep] using h
    exact ⟨by simp, by simp, s.ptxOut_prefix_acceptPtx, by simp, fun hc => absurd rfl hc⟩

/-- Settles O25: choosing the step and dropping the response touch no stream, so the agent's step decides. -/
theorem streamsGrowOnlyBySinks : Obligations.StreamsGrowOnlyBySinks := by
  unfold Obligations.StreamsGrowOnlyBySinks
  intro s t h
  simpa [StreamsGrow] using agentStep_streamsGrow h

/-! ### The response port -/

/-- What choosing the next step leaves of a state does not depend on HE_OUT. -/
theorem State.afterChoice_dropResponse_heOut (s : State) (x : Option (BitVec 16)) :
    { s with heOut := x }.afterChoice.dropResponse = s.afterChoice.dropResponse := by
  unfold State.afterChoice
  cases s.sched <;> rfl

/-- A word leaves HE_OUT as it is, or is a HEX word that answers there. -/
theorem exec_heOut {i : Instr} {s t : State} (h : exec i s = .next t) :
    t.heOut = s.heOut ∨ ∃ v, i = .hex v ∧ t.heOut = some (heResponse v) := by
  rcases exec_cases h with rfl | ⟨f, -, -, rfl⟩ | ⟨v, -, hi, rfl⟩ | ⟨c, -, -, -, rfl⟩ | ⟨-, -, -, -, rfl⟩ |
    ⟨b, -, -, -, -, -, rfl⟩ | ⟨-, -, -, -, -, rfl⟩
  case inr.inr.inl => exact .inr ⟨v, hi, rfl⟩
  all_goals exact .inl rfl

theorem runUnit_heOut {u : HwUnit} {s t : State} (h : runUnit u s = .next t) :
    t.heOut = s.heOut ∨
      ∃ q rest v, (s.port u).waiting = q :: rest ∧ decode q = .hex v ∧ t.heOut = some (heResponse v) := by
  rcases runUnit_next h with rfl | ⟨q, rest, hq, he⟩
  · exact .inl rfl
  · exact (exec_heOut he).imp_right fun ⟨v, hv, ht⟩ => ⟨q, rest, v, hq, hv, ht⟩

theorem seqStep_heOut {s t : State} (h : seqStep s = .next t) : t.heOut = s.heOut := by
  rcases seqStep_next h with rfl | ⟨i, hi, he⟩
  · rfl
  · rcases exec_heOut he with ht | ⟨v, rfl, -⟩
    · exact ht
    · simp [Instr.owner] at hi

/-- An agent's step leaves HE_OUT as it is, or is a unit's step on a HEX word. -/
theorem agentStep_heOut {c : Choice} {s t : State} (h : agentStep c s = .next t) :
    t.heOut = s.heOut ∨ ∃ u q rest v, c = .run u ∧ (s.port u).waiting = q :: rest ∧ decode q = .hex v ∧
      t.heOut = some (heResponse v) := by
  cases c with
  | run u => exact (runUnit_heOut h).imp_right fun ⟨q, rest, v, hword⟩ => ⟨u, q, rest, v, rfl, hword⟩
  | seq => exact .inl (seqStep_heOut h)
  | _ =>
    obtain rfl := Host.Outcome.next.inj h
    exact .inl (by simp)

@[simp] theorem State.afterChoice_port (s : State) (u : HwUnit) : s.afterChoice.port u = s.port u := by
  cases u <;> simp [State.port]

@[simp] theorem State.dropResponse_port (s : State) (u : HwUnit) : s.dropResponse.port u = s.port u := by
  cases u <;> rfl

/-- Settles O24: a step starts without a response, so one that it leaves is its own HEX word's. -/
theorem heOutIsTheHexStepsAnswer : Obligations.HeOutIsTheHexStepsAnswer := by
  unfold Obligations.HeOutIsTheHexStepsAnswer
  refine ⟨fun s x => ?_, fun s t r h hr => ?_⟩
  · rw [step_eq, step_eq, State.afterChoice_dropResponse_heOut]
    rfl
  · rcases agentStep_heOut h with hkept | ⟨u, q, rest, v, hc, hq, hv, ht⟩
    · simp [hkept] at hr
    · exact ⟨u, q, rest, v, hc, by simpa using hq, hv, Option.some.inj (hr.symm.trans ht)⟩

end Sys2Proof.Machine

/-! PROOF. O39: the command port over whole runs (R21, R46).  Three invariants that every agent's step keeps (each list
holds its own unit's words, the peripheral stream is the executed FRAME words' frames, HE's and FB's lists hold what was
presented), and one induction over the steps of a run. -/

namespace Sys2Proof

/-! ### Words are what their operations encode to -/

theorem mkWord_fields (q : ReqWord) : mkWord (opField q) (dField q) = q := by
  unfold mkWord opField dField
  ext i hi
  by_cases h8 : i < 8
  · simp [hi, h8]
  · have hcol : 8 + (i - 8) = i := by omega
    simp [h8, hcol, Nat.le_of_lt_succ hi, BitVec.getLsbD_eq_getElem hi]

theorem encode_decodeFrame (d : Byte) : encode (decodeFrame d) = mkWord 0b01 d := by
  unfold decodeFrame
  split_ifs <;> subst_vars <;> rfl

theorem encode_decodeCtl (d : Byte) : encode (decodeCtl d) = mkWord 0b11 d := by
  unfold decodeCtl
  split_ifs <;> subst_vars <;> rfl

/-- The last of the four families is what is left of OP (R60). -/
theorem op_eq_three {op : BitVec 2} (h0 : op ≠ 0b00) (h1 : op ≠ 0b01) (h2 : op ≠ 0b10) : op = 0b11 := by
  revert op
  decide

theorem encode_decode (q : ReqWord) : encode (decode q) = q := by
  unfold decode
  split_ifs with h0 h1 h2
  · rw [encode, ← h0, mkWord_fields]
  · rw [encode_decodeFrame, ← h1, mkWord_fields]
  · rw [encode, ← h2, mkWord_fields]
  · rw [encode_decodeCtl, ← op_eq_three h0 h1 h2, mkWord_fields]

theorem encode_owner (i : Instr) : wordOwner (encode i) = i.owner := by
  cases i with
  | hex v => exact Laws.EncodeOwner.hex v
  | frameUnrec c => exact Laws.EncodeOwner.frameUnrec c
  | rx b => exact Laws.EncodeOwner.rx b
  | reserved d => exact Laws.EncodeOwner.reserved d
  | _ => rfl

end Sys2Proof

namespace Sys2Proof.Machine

/-! ### The words of a request list -/

/-- Every word presented to or issued at a unit so far, executed and waiting, in order (R21). -/
def Port.words (p : Port) : List ReqWord := p.done ++ p.waiting

theorem Port.words_present (p : Port) (q : ReqWord) : (p.present q).words = p.words ++ [q] := by
  simp [Port.words]

/-- Executing the head of the waiting part moves the position over it and keeps the list. -/
theorem Port.words_retire {p : Port} {q : ReqWord} {rest : List ReqWord} (h : p.waiting = q :: rest) :
    (p.retire q).words = p.words := by
  simp [Port.words, h]

theorem Port.mem_words_issue {p : Port} {q w : ReqWord} (h : w ∈ (p.issue q).words) : w = q ∨ w ∈ p.words := by
  simp only [Port.words, Port.issue_done, Port.issue_waiting, List.mem_append, List.mem_cons] at h ⊢
  tauto

theorem Port.mem_words_retire {p : Port} {q w : ReqWord} (h : w ∈ (p.retire q).words) : w = q ∨ w ∈ p.words := by
  simp only [Port.words, Port.retire_done, Port.retire_waiting, List.mem_append, List.mem_singleton] at h ⊢
  have htail : w ∈ p.waiting.tail → w ∈ p.waiting := List.mem_of_mem_tail
  tauto

theorem portsOwned_iff {s : State} : PortsOwned s ↔ ∀ u, ∀ q ∈ (s.port u).words, wordOwner q = u := by
  constructor
  · rintro ⟨hhe, hfb, hrt⟩ u
    cases u
    · exact hhe
    · exact hfb
    · exact hrt
  · exact fun h => ⟨h .he, h .fb, h .rt⟩

/-! ### What each agent's step does to the lists -/

theorem State.present_port (s : State) (q : ReqWord) (u : HwUnit) :
    (s.present q).port u = if wordOwner q = u then (s.port u).present q else s.port u := by
  rcases present_cases s q with ⟨ho, hp⟩ | ⟨ho, hp⟩ | ⟨ho, hp⟩ <;> rw [ho, hp] <;> cases u <;> rfl

theorem State.issueRt_port {u : HwUnit} (hu : u ≠ .rt) (s : State) (q : ReqWord) :
    (s.issueRt q).port u = s.port u := by
  cases u
  · rfl
  · rfl
  · exact absurd rfl hu

/-- A unit that runs a word of its own moves its position and keeps every unit's list. -/
theorem runUnit_words {u : HwUnit} {s t : State} (ho : PortsOwned s) (h : runUnit u s = .next t) (v : HwUnit) :
    (t.port v).words = (s.port v).words := by
  rcases runUnit_next h with rfl | ⟨q, rest, hq, he⟩
  · rfl
  · have hown : (decode q).owner = u :=
      (decode_owner q).trans (portsOwned_iff.1 ho u q (by simp [Port.words, hq]))
    rcases exec_port he v with hv | ⟨rfl, hv⟩
    · rw [hv]
    · rw [hv, encode_decode]
      exact Port.words_retire (hown ▸ hq)

theorem seqStep_port {s t : State} {u : HwUnit} (hu : u ≠ .rt) (h : seqStep s = .next t) : t.port u = s.port u := by
  rcases seqStep_next h with rfl | ⟨i, hi, he⟩
  · rfl
  · rcases exec_port he u with hp | ⟨hown, -⟩
    · rw [hp, State.issueRt_port hu]
    · exact absurd (hown.trans hi) hu

/-- The sequencer's step adds to RT's list at most a word of RT. -/
theorem seqStep_rt_mem {s t : State} (h : seqStep s = .next t) {w : ReqWord} (hw : w ∈ t.rt.words) :
    w ∈ s.rt.words ∨ wordOwner w = .rt := by
  rcases seqStep_next h with rfl | ⟨i, hi, he⟩
  · exact .inl hw
  · have hmem : w = encode i ∨ w ∈ (s.rt.issue (encode i)).words := by
      rcases exec_port he .rt with hp | ⟨-, hp⟩
      · exact .inr (hp ▸ hw : w ∈ ((s.issueRt (encode i)).port .rt).words)
      · exact Port.mem_words_retire (hp ▸ hw : w ∈ (((s.issueRt (encode i)).port .rt).retire (encode i)).words)
    rcases hmem.imp_right Port.mem_words_issue with rfl | rfl | hs
    · exact .inr ((encode_owner i).trans hi)
    · exact .inr ((encode_owner i).trans hi)
    · exact .inl hs

theorem owner_of_mem_presentedWords {c : Choice} {u : HwUnit} {w : ReqWord} (h : w ∈ presentedWords u c) :
    wordOwner w = u := by
  cases c with
  | present q =>
    by_cases hq : wordOwner q = u
    · obtain rfl : w = q := by simpa [presentedWords, hq] using h
      exact hq
    · simp [presentedWords, hq] at h
  | _ => simp [presentedWords] at h

/-- A list grows by exactly the word presented to its unit; only RT's list takes words of the sequencer too. -/
theorem agentStep_words {c : Choice} {s t : State} {u : HwUnit} (hu : c = .seq → u ≠ .rt) (ho : PortsOwned s)
    (h : agentStep c s = .next t) : (t.port u).words = (s.port u).words ++ presentedWords u c := by
  cases c with
  | run v => simpa [presentedWords] using runUnit_words ho h u
  | seq => simp [presentedWords, seqStep_port (hu rfl) h]
  | present q =>
    obtain rfl := Host.Outcome.next.inj h
    rw [State.present_port, presentedWords]
    split
    · exact Port.words_present _ q
    · simp
  | _ =>
    obtain rfl := Host.Outcome.next.inj h
    cases u <;> simp [State.port, presentedWords]

theorem agentStep_portsOwned {c : Choice} {s t : State} (ho : PortsOwned s) (h : agentStep c s = .next t) :
    PortsOwned t := by
  rw [portsOwned_iff]
  intro u w hw
  have hmem : w ∈ (s.port u).words ∨ wordOwner w = u := by
    by_cases hsr : c = .seq ∧ u = .rt
    · obtain ⟨rfl, rfl⟩ := hsr
      exact seqStep_rt_mem h hw
    · rw [agentStep_words (fun hc hu => hsr ⟨hc, hu⟩) ho h] at hw
      exact (List.mem_append.1 hw).imp_right owner_of_mem_presentedWords
  exact hmem.elim (portsOwned_iff.1 ho u w) id

/-! ### The peripheral stream -/

theorem wordCommand_eq (q : ReqWord) : wordCommand q = frameCommand (decode q) := by
  unfold wordCommand
  cases decode q <;> rfl

theorem framesOf_append_frame {q : ReqWord} {c : Command} (h : wordCommand q = some c) (mode : ChecksumMode)
    (ws : List ReqWord) : framesOf mode (ws ++ [q]) = framesOf mode ws ++ frameBytes mode c := by
  simp [framesOf, h]

/-- A FRAME word records itself with the frame it emits, so any word whose record is its own keeps the stream's law. -/
theorem exec_ptxLaw {i : Instr} {s t : State} (hi : ∀ c, frameCommand i = some c → wordCommand (encode i) = some c)
    (hl : PtxLaw s) (h : exec i s = .next t) : PtxLaw t := by
  rcases exec_cases h with rfl | ⟨f, -, -, rfl⟩ | ⟨v, -, -, rfl⟩ | ⟨c, -, -, hc, rfl⟩ | ⟨-, -, -, -, rfl⟩ |
    ⟨b, -, -, -, -, -, rfl⟩ | ⟨-, -, -, -, -, rfl⟩
  case inr.inr.inr.inl =>
    have hframes := framesOf_append_frame (hi c hc) s.cfg.checksumMode s.fb.done
    simp [PtxLaw, hframes, ← hl]
  all_goals exact hl

theorem runUnit_ptxLaw {u : HwUnit} {s t : State} (hl : PtxLaw s) (h : runUnit u s = .next t) : PtxLaw t := by
  rcases runUnit_next h with rfl | ⟨q, rest, -, he⟩
  · exact hl
  · exact exec_ptxLaw (fun c hc => by rw [encode_decode, wordCommand_eq, hc]) hl he

theorem seqStep_ptxLaw {s t : State} (hl : PtxLaw s) (h : seqStep s = .next t) : PtxLaw t := by
  rcases seqStep_next h with rfl | ⟨i, hi, he⟩
  · exact hl
  · have hlIssued : PtxLaw (s.issueRt (encode i)) := hl
    exact exec_ptxLaw (fun c hc => by simp [owner_of_frameCommand hc] at hi) hlIssued he

theorem agentStep_ptxLaw {c : Choice} {s t : State} (hl : PtxLaw s) (h : agentStep c s = .next t) : PtxLaw t := by
  cases c with
  | run u => exact runUnit_ptxLaw hl h
  | seq => exact seqStep_ptxLaw hl h
  | acceptPtx =>
    obtain rfl : s.acceptPtx = t := by simpa [agentStep] using h
    simpa [PtxLaw, acceptPtx_stream] using hl
  | present q =>
    obtain rfl : s.present q = t := by simpa [agentStep] using h
    have hdone : (s.present q).fb.done = s.fb.done := by
      have hfb := s.present_port q .fb
      simp only [State.port] at hfb
      rw [hfb]
      split <;> rfl
    simpa [PtxLaw, hdone] using hl
  | _ =>
    obtain rfl := Host.Outcome.next.inj h
    simpa [PtxLaw] using hl

/-! ### Whole runs -/

theorem stepWith_isNext (c : Choice) (s : State) : ∃ t, stepWith c s = .next t := by
  cases c with
  | run u =>
    rcases runUnit_cases u s.dropResponse with ⟨-, hr⟩ | ⟨q, rest, -, hr⟩
    · exact ⟨_, hr⟩
    · obtain ⟨t, ht⟩ := exec_isNext (decode q) s.dropResponse
      exact ⟨t, hr.trans ht⟩
  | seq =>
    unfold stepWith agentStep seqStep
    cases seqInstr s.dropResponse with
    | none => exact ⟨_, rfl⟩
    | some i => exact exec_isNext _ _
  | _ => exact ⟨_, rfl⟩

/-- What holds of no steps and the start, and is kept when a step is added at the end, holds of every run: `P` speaks of
the steps taken and the state they lead to. -/
theorem runChoices_induction {P : List Choice → State → Prop} {s : State} (hstart : P [] s)
    (hstep : ∀ taken c s t, P taken s → stepWith c s = .next t → P (taken ++ [c]) t) (cs : List Choice) :
    P cs (runChoices cs s) := by
  suffices hfrom : ∀ cs taken s, P taken s → P (taken ++ cs) (runChoices cs s) from hfrom cs [] s hstart
  intro cs
  induction cs with
  | nil => intro taken s hs; simpa [runChoices] using hs
  | cons c cs ih =>
    intro taken s hs
    obtain ⟨t, ht⟩ := stepWith_isNext c s
    have hrest := ih (taken ++ [c]) t (hstep taken c s t hs ht)
    simpa [runChoices, ht, Outcome.stateOr] using hrest

theorem presentedTo_append_singleton (u : HwUnit) (cs : List Choice) (c : Choice) :
    presentedTo u (cs ++ [c]) = presentedTo u cs ++ presentedWords u c := by
  simp [presentedTo]

/-- What a run's steps and its state have in common at the command port and the peripheral channel. -/
structure PeripheralAccount (cfg : BlockConfig) (cs : List Choice) (s : State) : Prop where
  owned : PortsOwned s
  law : PtxLaw s
  cfg_eq : s.cfg = cfg
  words : ∀ u, u ≠ .rt → (s.port u).words = presentedTo u cs

theorem peripheralAccount_reset (cfg : BlockConfig) : PeripheralAccount cfg [] (State.resetWith cfg) where
  owned := by simp [PortsOwned, State.resetWith, Port.empty]
  law := rfl
  cfg_eq := rfl
  words u _ := by cases u <;> rfl

theorem stepWith_peripheralAccount {cfg : BlockConfig} {cs : List Choice} {c : Choice} {s t : State}
    (ha : PeripheralAccount cfg cs s) (h : stepWith c s = .next t) : PeripheralAccount cfg (cs ++ [c]) t where
  owned := agentStep_portsOwned (s := s.dropResponse) ha.owned h
  law := agentStep_ptxLaw (s := s.dropResponse) ha.law h
  cfg_eq := (agentStep_streamsGrow h).1.trans ha.cfg_eq
  words u hu := by
    rw [agentStep_words (s := s.dropResponse) (fun _ => hu) ha.owned h, State.dropResponse_port, ha.words u hu,
      presentedTo_append_singleton]

/-- Settles O39: the account holds of every run from reset; a quiescent state has no byte pending and no FRAME word
waiting, so there the stream is the frames of all that was presented. -/
theorem peripheralStreamIsTheFrames : Obligations.PeripheralStreamIsTheFrames := by
  unfold Obligations.PeripheralStreamIsTheFrames
  intro cfg cs s
  have ha : PeripheralAccount cfg cs s :=
    runChoices_induction (peripheralAccount_reset cfg) (fun _ _ _ _ => stepWith_peripheralAccount) cs
  have hfb : s.fb.done ++ s.fb.waiting = presentedTo .fb cs := ha.words .fb (by simp)
  have hhe : s.he.done ++ s.he.waiting = presentedTo .he cs := ha.words .he (by simp)
  have hptx : s.ptxOut ++ s.ptxPend = framesOf cfg.checksumMode s.fb.done := ha.cfg_eq ▸ ha.law
  refine ⟨hfb, hhe, hptx, ?_⟩
  rintro ⟨-, -, -, -, -, hpend, -, hwait⟩
  simpa [← hfb, hpend, hwait] using hptx

end Sys2Proof.Machine

/-! PROOF. O23: the environment's steps (R43, R115, R116). -/

namespace Sys2Proof.Machine

/-- Settles O23: the inputs by their definitions, a sink by whether its buffer has a head. -/
theorem environmentStepsQueueAndAccept : Obligations.EnvironmentStepsQueueAndAccept := by
  unfold Obligations.EnvironmentStepsQueueAndAccept
  intro s
  refine ⟨fun b => rfl, rfl, fun b rest h => ?_, fun h => ?_, fun b rest h => ?_, fun h => ?_⟩
  · exact congrArg Host.Outcome.next (acceptCon_of_cons (s := s.dropResponse) h)
  · exact congrArg Host.Outcome.next (acceptCon_of_nil (s := s.dropResponse) h)
  · exact congrArg Host.Outcome.next (acceptPtx_of_cons (s := s.dropResponse) h)
  · exact congrArg Host.Outcome.next (acceptPtx_of_nil (s := s.dropResponse) h)

end Sys2Proof.Machine

/-! PROOF. O16: when a word waits and when it runs (R45).  The hold of a word is its owner's pending buffer; a word that
neither waits nor is halted completes or, if it is one of RT, raises a fault. -/

namespace Sys2Proof.Machine

/-! ### The hold of each unit's words -/

theorem conHeld_eq_true {s : State} : s.conHeld = true ↔ s.conPend ≠ [] := by
  simp [State.conHeld]

theorem ptxHeld_eq_true {s : State} : s.ptxHeld = true ↔ s.ptxPend ≠ [] := by
  simp [State.ptxHeld]

theorem wordHolds_he {i : Instr} (ho : i.owner = .he) (s : State) : wordHolds i s = false := by
  cases i with
  | hex v => rfl
  | _ => simp [Instr.owner] at ho

theorem frameCommand_of_owner {i : Instr} (ho : i.owner = .fb) : ∃ c, frameCommand i = some c := by
  cases i with
  | hex _ | rx _ | beginBurst | endBurst | reserved _ => simp [Instr.owner] at ho
  | _ => exact ⟨_, rfl⟩

theorem wordHolds_fb {i : Instr} (ho : i.owner = .fb) (s : State) : wordHolds i s = s.ptxHeld := by
  obtain ⟨c, hc⟩ := frameCommand_of_owner ho
  exact wordHolds_frame hc s

/-- RT's words wait on CON_PEND, the reserved ones excepted: they never wait (R137). -/
theorem wordHolds_rt {i : Instr} (ho : i.owner = .rt) (s : State) :
    wordHolds i s = s.conHeld ∨ (wordHolds i s = false ∧ ∃ d, i = .reserved d) := by
  cases i with
  | rx _ | beginBurst | endBurst => exact .inl rfl
  | reserved d => exact .inr ⟨rfl, d, rfl⟩
  | _ => simp [Instr.owner] at ho

/-! ### Waiting and running -/

theorem exec_waits {i : Instr} {s : State} (h : s.fault ≠ none ∨ wordHolds i s = true) : exec i s = .next s := by
  obtain ⟨act, hexec, -⟩ := exec_eq_unitStep i
  rw [hexec, unitStep_waits h]

/-- A word that neither a fault nor its hold keeps back raises a fault or completes. -/
theorem exec_runs {i : Instr} {s : State} (hf : s.fault = none) (hh : wordHolds i s = false) :
    ∃ t, exec i s = .next t ∧ ((∃ f, t = s.raise f) ∨ WordCompletes i s t) := by
  obtain ⟨act, hexec, hact⟩ := exec_eq_unitStep i
  exact ⟨act s, by rw [hexec, unitStep_runs hf hh], hact s hf⟩

theorem exec_fault_of_owner {i : Instr} {s t : State} (ho : i.owner ≠ .rt) (h : exec i s = .next t) :
    t.fault = s.fault := by
  rcases exec_cases h with rfl | ⟨f, -, hrt, -⟩ | ⟨v, -, -, rfl⟩ | ⟨c, -, -, -, rfl⟩ | ⟨-, -, -, -, rfl⟩ |
    ⟨b, -, -, -, -, -, rfl⟩ | ⟨-, -, -, -, -, rfl⟩
  case inr.inl => exact absurd hrt ho
  all_goals rfl

theorem WordCompletes.index {i : Instr} {s t : State} (h : WordCompletes i s t) :
    (t.port i.owner).index = (s.port i.owner).index + 1 := by
  obtain ⟨-, hport⟩ := h
  simp [hport, Port.index]

/-- HE's and FB's words raise no fault, so they complete whenever they run. -/
theorem exec_completes {i : Instr} {s : State} (ho : i.owner ≠ .rt) (hf : s.fault = none)
    (hh : wordHolds i s = false) : ∃ t, exec i s = .next t ∧ WordCompletes i s t := by
  obtain ⟨t, ht, ⟨f, rfl⟩ | hc⟩ := exec_runs hf hh
  · have hkept := exec_fault_of_owner ho ht
    simp [hf] at hkept
  · exact ⟨t, ht, hc⟩

/-- Settles O16: each unit's words by that unit's hold. -/
theorem heldWordsWait : Obligations.HeldWordsWait := by
  unfold Obligations.HeldWordsWait
  intro i s
  refine ⟨fun ho hr hc => ?_, fun ho hp => ?_, fun ho hf hp => ?_, fun ho hf hc => ?_, fun ho hf => ?_⟩
  · rcases wordHolds_rt ho s with hh | ⟨-, d, hd⟩
    · exact exec_waits (.inr (hh.trans (conHeld_eq_true.2 hc)))
    · exact absurd hd (hr d)
  · exact exec_waits (.inr ((wordHolds_fb ho s).trans (ptxHeld_eq_true.2 hp)))
  · obtain ⟨t, ht, hdone⟩ := exec_completes (by simp [ho]) hf ((wordHolds_fb ho s).trans (ptxHeld_eq_false.2 hp))
    exact ⟨t, ht, by simpa [ho, State.port] using hdone.index⟩
  · have hh : wordHolds i s = false := by
      rcases wordHolds_rt ho s with hh | ⟨hh, -⟩
      · exact hh.trans (conHeld_eq_false.2 hc)
      · exact hh
    obtain ⟨t, ht, ⟨f, rfl⟩ | hdone⟩ := exec_runs hf hh
    · exact ⟨_, ht, fun hn => by simp at hn⟩
    · exact ⟨t, ht, fun _ => by simpa [ho, State.port] using hdone.index⟩
  · obtain ⟨t, ht, hdone⟩ := exec_completes (by simp [ho]) hf (wordHolds_he ho s)
    exact ⟨t, ht, by simpa [ho, State.port] using hdone.index⟩

end Sys2Proof.Machine

/-! PROOF. O27: a step changes the block exactly when it is enabled (R136, with the guards of R43, R45, R118, R131).  A
word that runs raises a fault or moves a position, and a sink that accepts shortens its buffer, so neither leaves the
state as it was. -/

namespace Sys2Proof.Machine

/-! ### What changes nothing, agent by agent -/

theorem Port.index_retire (p : Port) (q : ReqWord) : (p.retire q).index = p.index + 1 := by
  simp [Port.index]

theorem acceptCon_eq_self_iff {s : State} : s.acceptCon = s ↔ s.conHeld = false := by
  rw [conHeld_eq_false]
  refine ⟨fun h => ?_, acceptCon_of_nil⟩
  rcases acceptCon_cases s with ⟨hnil, -⟩ | ⟨b, rest, hcons, hstep⟩
  · exact hnil
  · have hpend : rest = b :: rest := by rw [← hcons, ← congrArg State.conPend (hstep.symm.trans h)]
    simp at hpend

theorem acceptPtx_eq_self_iff {s : State} : s.acceptPtx = s ↔ s.ptxHeld = false := by
  rw [ptxHeld_eq_false]
  refine ⟨fun h => ?_, acceptPtx_of_nil⟩
  rcases acceptPtx_cases s with ⟨hnil, -⟩ | ⟨b, rest, hcons, hstep⟩
  · exact hnil
  · have hpend : rest = b :: rest := by rw [← hcons, ← congrArg State.ptxPend (hstep.symm.trans h)]
    simp at hpend

theorem exec_eq_self_iff {i : Instr} {s : State} :
    exec i s = .next s ↔ s.fault ≠ none ∨ wordHolds i s = true := by
  refine ⟨fun h => ?_, exec_waits⟩
  rcases exec_position_cases h with ⟨hw, -⟩ | ⟨hf, -, ⟨f, hr⟩ | hc⟩
  · exact hw
  · exact .inl (by rw [hr]; simp)
  · have hindex := hc.index
    omega

theorem runUnit_eq_self_iff {u : HwUnit} {s : State} : runUnit u s = .next s ↔ unitReady u s = false := by
  unfold runUnit unitReady
  cases s.fetch u with
  | none => simp
  | some q => simp [exec_eq_self_iff, State.halted, or_iff_not_imp_left]

/-- The sequencer's word runs to its end in the step that issues it (R118). -/
theorem seqStep_index {s t : State} (hi : seqInstr s ≠ none) (h : seqStep s = .next t) :
    t.rt.index = s.rt.index + 1 := by
  rcases seqStep_cases s with ⟨hn, -⟩ | ⟨-, -, ⟨-, -, hs⟩ | ⟨b, rest, -, -, hs⟩ | ⟨-, -, hs⟩⟩
  · exact absurd hn hi
  all_goals
    obtain rfl := Host.Outcome.next.inj (hs.symm.trans h)
    exact Port.index_retire _ _

theorem seqStep_eq_self_iff {s : State} : seqStep s = .next s ↔ seqInstr s = none := by
  refine ⟨fun h => ?_, fun h => by simp [seqStep, h]⟩
  by_contra hi
  have hindex := seqStep_index hi h
  omega

/-! ### Steps from inside the block -/

/-- The steps of the block's own agents and sinks: no input from outside (R157). -/
def insideChoices : List Choice := [.acceptCon, .acceptPtx, .seq, .run .he, .run .fb, .run .rt]

theorem run_mem_insideChoices (u : HwUnit) : Choice.run u ∈ insideChoices := by
  cases u <;> simp [insideChoices]

theorem mem_insideChoices {c : Choice} (h : (∀ b, c ≠ .arrive b) ∧ c ≠ .spurious ∧ ∀ q, c ≠ .present q) :
    c ∈ insideChoices := by
  obtain ⟨harrive, hspurious, hpresent⟩ := h
  cases c with
  | arrive b => exact absurd rfl (harrive b)
  | spurious => exact absurd rfl hspurious
  | present q => exact absurd rfl (hpresent q)
  | run u => exact run_mem_insideChoices u
  | _ => simp [insideChoices]

theorem agentStep_eq_self_iff {c : Choice} (hc : c ∈ insideChoices) {s : State} :
    agentStep c s = .next s ↔ enabled c s = false := by
  cases c with
  | arrive b | spurious | present q => simp [insideChoices] at hc
  | acceptCon => simp [agentStep, acceptCon_eq_self_iff]
  | acceptPtx => simp [agentStep, acceptPtx_eq_self_iff]
  | run u => exact runUnit_eq_self_iff
  | seq => simp [agentStep, enabled, seqStep_eq_self_iff]

theorem unitReady_dropResponse (u : HwUnit) (s : State) : unitReady u s.dropResponse = unitReady u s := by
  cases u <;> rfl

/-- No step's guard reads HE_OUT (R33). -/
theorem enabled_dropResponse (c : Choice) (s : State) : enabled c s.dropResponse = enabled c s := by
  cases c with
  | run u => exact unitReady_dropResponse u s
  | _ => rfl

theorem stepWith_eq_dropResponse_iff {c : Choice} (hc : c ∈ insideChoices) {s : State} :
    stepWith c s = .next s.dropResponse ↔ enabled c s = false := by
  rw [← enabled_dropResponse c s]
  exact agentStep_eq_self_iff hc

/-! ### What an enabled unit does -/

/-- A ready unit executes its next word, which neither waits nor meets a fault. -/
theorem runUnit_of_ready {u : HwUnit} {s : State} (h : unitReady u s = true) :
    ∃ q rest, (s.port u).waiting = q :: rest ∧ s.fault = none ∧ wordHolds (decode q) s = false ∧
      runUnit u s = exec (decode q) s := by
  obtain ⟨hf, q, hq, hh⟩ := (unitReady_iff u s).1 h
  rcases runUnit_cases u s with ⟨hnil, -⟩ | ⟨q', rest, hcons, hrun⟩
  · simp [State.fetch, hnil] at hq
  · obtain rfl : q' = q := by simpa [State.fetch, hcons] using hq
    exact ⟨q', rest, hcons, hf, hh, hrun⟩

theorem owner_of_head {u : HwUnit} {s : State} {q : ReqWord} {rest : List ReqWord} (ho : PortsOwned s)
    (hq : (s.port u).waiting = q :: rest) : (decode q).owner = u :=
  (decode_owner q).trans (portsOwned_iff.1 ho u q (by simp [Port.words, hq]))

theorem runUnit_index_of_ready {u : HwUnit} {s t : State} (ho : PortsOwned s) (hr : unitReady u s = true)
    (h : runUnit u s = .next t) : t.fault ≠ none ∨ (t.port u).index = (s.port u).index + 1 := by
  obtain ⟨q, rest, hq, hf, hh, hrun⟩ := runUnit_of_ready hr
  rcases exec_position_cases (hrun.symm.trans h) with ⟨hw, -⟩ | ⟨-, -, ⟨f, rfl⟩ | hc⟩
  · simp [hf, hh] at hw
  · exact .inl (by simp)
  · exact .inr (owner_of_head ho hq ▸ hc.index)

/-- Settles O27: the guards are exact agent by agent, and the response is no part of any. -/
theorem onlyEnabledStepsChangeTheBlock : Obligations.OnlyEnabledStepsChangeTheBlock := by
  unfold Obligations.OnlyEnabledStepsChangeTheBlock
  refine ⟨fun s c hc => (stepWith_eq_dropResponse_iff hc).symm, fun s t he h => ?_, fun s t u ho he h => ?_⟩
  · obtain ⟨i, hi⟩ := (enabled_seq_iff s).1 he
    have hsome : seqInstr s.dropResponse ≠ none := Option.ne_none_iff_exists'.2 ⟨i, hi⟩
    exact seqStep_index (s := s.dropResponse) hsome h
  · have hready : unitReady u s.dropResponse = true := (unitReady_dropResponse u s).trans he
    simpa using runUnit_index_of_ready (s := s.dropResponse) ho hready h

end Sys2Proof.Machine

/-! PROOF. O43: a sink that accepts nothing (R44).  While its buffer is not empty, no other agent's step gets past the
hold: one lemma per kind of step, and one induction over the run for each sink. -/

namespace Sys2Proof.Machine

/-! ### The console channel -/

/-- RT stands where it stood: its state, its pending and accepted bytes and its executed words are the same, and the
receive buffer has at most grown. -/
def ConsoleStands (s t : State) : Prop :=
  t.st = s.st ∧ t.hdr = s.hdr ∧ t.conPend = s.conPend ∧ t.conOut = s.conOut ∧ t.rt.done = s.rt.done ∧ s.prxQ <+: t.prxQ

theorem ConsoleStands.refl (s : State) : ConsoleStands s s := ⟨rfl, rfl, rfl, rfl, rfl, List.prefix_rfl⟩

theorem ConsoleStands.conPend {s t : State} (h : ConsoleStands s t) : t.conPend = s.conPend := by
  obtain ⟨-, -, hpend, -⟩ := h
  exact hpend

theorem ConsoleStands.trans {r s t : State} (h₁ : ConsoleStands r s) (h₂ : ConsoleStands s t) : ConsoleStands r t := by
  obtain ⟨hst₁, hhdr₁, hpend₁, hout₁, hdone₁, hprx₁⟩ := h₁
  obtain ⟨hst₂, hhdr₂, hpend₂, hout₂, hdone₂, hprx₂⟩ := h₂
  exact ⟨hst₂.trans hst₁, hhdr₂.trans hhdr₁, hpend₂.trans hpend₁, hout₂.trans hout₁, hdone₂.trans hdone₁,
    hprx₁.trans hprx₂⟩

theorem exec_consoleStands {i : Instr} {s t : State} (hp : s.conPend ≠ []) (h : exec i s = .next t) :
    ConsoleStands s t := by
  rcases exec_cases h with rfl | ⟨f, -, -, rfl⟩ | ⟨v, -, -, rfl⟩ | ⟨c, -, -, -, rfl⟩ | ⟨-, hnil, -⟩ |
    ⟨b, -, hnil, -⟩ | ⟨-, hnil, -⟩
  case inl | inr.inl | inr.inr.inl | inr.inr.inr.inl => exact ConsoleStands.refl _
  all_goals exact absurd hnil hp

theorem State.present_done (s : State) (q : ReqWord) (u : HwUnit) : ((s.present q).port u).done = (s.port u).done := by
  rw [State.present_port]
  split <;> simp

theorem seqInstr_eq_none_of_conPend {s : State} (hp : s.conPend ≠ []) : seqInstr s = none := by
  rcases seqInstr_cases s with ⟨hn, -⟩ | ⟨-, hnil, -⟩
  · exact hn
  · exact absurd hnil hp

theorem agentStep_consoleStands {c : Choice} {s t : State} (hc : c ≠ .acceptCon) (hp : s.conPend ≠ [])
    (h : agentStep c s = .next t) : ConsoleStands s t := by
  cases c with
  | acceptCon => exact absurd rfl hc
  | run u =>
    rcases runUnit_next h with rfl | ⟨q, rest, -, he⟩
    · exact ConsoleStands.refl _
    · exact exec_consoleStands hp he
  | seq =>
    obtain rfl := Host.Outcome.next.inj ((seqStep_eq_self_iff.2 (seqInstr_eq_none_of_conPend hp)).symm.trans h)
    exact ConsoleStands.refl _
  | present q =>
    obtain rfl := Host.Outcome.next.inj h
    simpa [ConsoleStands, State.port] using s.present_done q .rt
  | _ =>
    obtain rfl := Host.Outcome.next.inj h
    simp [ConsoleStands]

theorem runChoices_consoleStands {cs : List Choice} {s : State} (hc : Choice.acceptCon ∉ cs) (hp : s.conPend ≠ []) :
    ConsoleStands s (runChoices cs s) := by
  refine runChoices_induction (P := fun taken t => Choice.acceptCon ∉ taken → ConsoleStands s t)
    (fun _ => ConsoleStands.refl s) (fun taken c t t' ih h hno => ?_) cs hc
  obtain ⟨htaken, hne⟩ : Choice.acceptCon ∉ taken ∧ Choice.acceptCon ≠ c := by simpa using hno
  have hsofar := ih htaken
  have hpend : t.dropResponse.conPend ≠ [] := hsofar.conPend.symm ▸ hp
  exact hsofar.trans (agentStep_consoleStands (s := t.dropResponse) hne.symm hpend h)

/-! ### The peripheral channel -/

/-- FB stands where it stood: its pending and accepted bytes and its executed words are the same. -/
def PeripheralStands (s t : State) : Prop :=
  t.ptxPend = s.ptxPend ∧ t.ptxOut = s.ptxOut ∧ t.fb.done = s.fb.done

theorem PeripheralStands.refl (s : State) : PeripheralStands s s := ⟨rfl, rfl, rfl⟩

theorem PeripheralStands.ptxPend {s t : State} (h : PeripheralStands s t) : t.ptxPend = s.ptxPend := by
  obtain ⟨hpend, -⟩ := h
  exact hpend

theorem PeripheralStands.trans {r s t : State} (h₁ : PeripheralStands r s) (h₂ : PeripheralStands s t) :
    PeripheralStands r t := by
  obtain ⟨hpend₁, hout₁, hdone₁⟩ := h₁
  obtain ⟨hpend₂, hout₂, hdone₂⟩ := h₂
  exact ⟨hpend₂.trans hpend₁, hout₂.trans hout₁, hdone₂.trans hdone₁⟩

theorem exec_peripheralStands {i : Instr} {s t : State} (hp : s.ptxPend ≠ []) (h : exec i s = .next t) :
    PeripheralStands s t := by
  rcases exec_cases h with rfl | ⟨f, -, -, rfl⟩ | ⟨v, -, -, rfl⟩ | ⟨c, -, hnil, -⟩ | ⟨-, -, -, -, rfl⟩ |
    ⟨b, -, -, -, -, -, rfl⟩ | ⟨-, -, -, -, -, rfl⟩
  case inr.inr.inr.inl => exact absurd hnil hp
  all_goals exact ⟨rfl, rfl, rfl⟩

theorem agentStep_peripheralStands {c : Choice} {s t : State} (hc : c ≠ .acceptPtx) (hp : s.ptxPend ≠ [])
    (h : agentStep c s = .next t) : PeripheralStands s t := by
  cases c with
  | acceptPtx => exact absurd rfl hc
  | run u =>
    rcases runUnit_next h with rfl | ⟨q, rest, -, he⟩
    · exact PeripheralStands.refl _
    · exact exec_peripheralStands hp he
  | seq =>
    rcases seqStep_next h with rfl | ⟨i, -, he⟩
    · exact PeripheralStands.refl _
    · simpa [PeripheralStands] using exec_peripheralStands (s := s.issueRt (encode i)) hp he
  | present q =>
    obtain rfl := Host.Outcome.next.inj h
    simpa [PeripheralStands, State.port] using s.present_done q .fb
  | _ =>
    obtain rfl := Host.Outcome.next.inj h
    simp [PeripheralStands]

theorem runChoices_peripheralStands {cs : List Choice} {s : State} (hc : Choice.acceptPtx ∉ cs)
    (hp : s.ptxPend ≠ []) : PeripheralStands s (runChoices cs s) := by
  refine runChoices_induction (P := fun taken t => Choice.acceptPtx ∉ taken → PeripheralStands s t)
    (fun _ => PeripheralStands.refl s) (fun taken c t t' ih h hno => ?_) cs hc
  obtain ⟨htaken, hne⟩ : Choice.acceptPtx ∉ taken ∧ Choice.acceptPtx ≠ c := by simpa using hno
  have hsofar := ih htaken
  have hpend : t.dropResponse.ptxPend ≠ [] := hsofar.ptxPend.symm ▸ hp
  exact hsofar.trans (agentStep_peripheralStands (s := t.dropResponse) hne.symm hpend h)

/-- Settles O43: one induction for each sink. -/
theorem deadSinkHoldsItsUnit : Obligations.DeadSinkHoldsItsUnit := by
  unfold Obligations.DeadSinkHoldsItsUnit
  exact fun cs s => ⟨runChoices_consoleStands, runChoices_peripheralStands⟩

end Sys2Proof.Machine

/-! PROOF. O45 and O46: fair runs reach quiescence (R44, R157; what a run is: log 25).  Every enabled step from inside
the block lowers `work`, so after the inputs have ended a run takes finitely many of them; and where no turn is ever
enabled again, fairness and the guards leave only a quiescent state. -/

namespace Sys2Proof.Machine

/-! ### The states of runs in which the sequencer alone issues RT words -/

/-- What such runs keep: no fault, the two invariants, and no word of a driver waiting at RT. -/
structure SequencerDriven (s : State) : Prop where
  unfaulted : s.fault = none
  sound : HandlerSound s
  owned : PortsOwned s
  noDriver : s.rt.waiting = []

theorem sequencerDriven_reset (cfg : BlockConfig) : SequencerDriven (State.resetWith cfg) where
  unfaulted := rfl
  sound := ⟨fun _ => rfl, fun _ hne => absurd rfl hne⟩
  owned := (peripheralAccount_reset cfg).owned
  noDriver := rfl

/-- A burst's entry and its bytes leave ST at SERVICING, its end leaves the buffer empty; no other word writes ST, HDR,
IRQ_PEND or the buffer. -/
theorem exec_handlerSound {i : Instr} {s t : State} (hs : HandlerSound s) (h : exec i s = .next t) :
    HandlerSound t := by
  rcases exec_cases h with rfl | ⟨f, -, -, rfl⟩ | ⟨v, -, -, rfl⟩ | ⟨c, -, -, -, rfl⟩ | ⟨-, -, -, -, rfl⟩ |
    ⟨b, -, -, -, hst, -, rfl⟩ | ⟨-, -, -, -, hq, rfl⟩
  case inl | inr.inl | inr.inr.inl | inr.inr.inr.inl => exact hs
  · simp [HandlerSound]
  · simp [HandlerSound, State.takePrx, hst]
  · simp [HandlerSound, hq]

theorem agentStep_handlerSound {c : Choice} {s t : State} (hs : HandlerSound s) (h : agentStep c s = .next t) :
    HandlerSound t := by
  cases c with
  | run u =>
    rcases runUnit_next h with rfl | ⟨q, rest, -, he⟩
    · exact hs
    · exact exec_handlerSound hs he
  | seq =>
    rcases seqStep_next h with rfl | ⟨i, -, he⟩
    · exact hs
    · exact exec_handlerSound (s := s.issueRt (encode i)) hs he
  | arrive b | spurious =>
    obtain rfl := Host.Outcome.next.inj h
    obtain ⟨hhdr, -⟩ := hs
    simpa [HandlerSound] using hhdr
  | _ =>
    obtain rfl := Host.Outcome.next.inj h
    simpa [HandlerSound] using hs

/-- With no word of a driver at RT, a unit's step is HE's or FB's, or it does nothing. -/
theorem runUnit_next_of_noDriver {u : HwUnit} {s t : State} (ho : PortsOwned s) (hd : s.rt.waiting = [])
    (h : runUnit u s = .next t) : t = s ∨ ∃ i, i.owner ≠ .rt ∧ exec i s = .next t := by
  rcases runUnit_next h with rfl | ⟨q, rest, hq, he⟩
  · exact .inl rfl
  · refine .inr ⟨decode q, fun hrt => ?_, he⟩
    obtain rfl : HwUnit.rt = u := hrt.symm.trans (owner_of_head ho hq)
    simp [State.port, hd] at hq

theorem seqStep_fault_waiting {s t : State} (h : seqStep s = .next t) :
    t.fault = s.fault ∧ t.rt.waiting = s.rt.waiting := by
  rcases seqStep_cases s with ⟨-, hs⟩ | ⟨-, -, ⟨-, -, hs⟩ | ⟨b, rest, -, -, hs⟩ | ⟨-, -, hs⟩⟩
  all_goals
    obtain rfl := Host.Outcome.next.inj (hs.symm.trans h)
    exact ⟨rfl, rfl⟩

theorem agentStep_fault_waiting {c : Choice} {s t : State} (hc : bySequencerOnly c) (ho : PortsOwned s)
    (hd : s.rt.waiting = []) (h : agentStep c s = .next t) : t.fault = s.fault ∧ t.rt.waiting = s.rt.waiting := by
  cases c with
  | run u =>
    rcases runUnit_next_of_noDriver ho hd h with rfl | ⟨i, hi, he⟩
    · exact ⟨rfl, rfl⟩
    · rcases exec_port he .rt with hport | ⟨hrt, -⟩
      · exact ⟨exec_fault_of_owner hi he, congrArg Port.waiting hport⟩
      · exact absurd hrt.symm hi
  | seq => exact seqStep_fault_waiting h
  | present q =>
    obtain rfl := Host.Outcome.next.inj h
    have hport := s.present_port q .rt
    rw [if_neg (hc q rfl)] at hport
    exact ⟨by simp, congrArg Port.waiting hport⟩
  | _ =>
    obtain rfl := Host.Outcome.next.inj h
    simp

theorem stepWith_sequencerDriven {c : Choice} {s t : State} (hc : bySequencerOnly c) (hs : SequencerDriven s)
    (h : stepWith c s = .next t) : SequencerDriven t := by
  obtain ⟨hfault, hwaiting⟩ := agentStep_fault_waiting (s := s.dropResponse) hc hs.owned hs.noDriver h
  exact ⟨hfault.trans hs.unfaulted, agentStep_handlerSound (s := s.dropResponse) hs.sound h,
    agentStep_portsOwned (s := s.dropResponse) hs.owned h, hwaiting.trans hs.noDriver⟩

/-- No step of HE, FB, the sequencer or a sink is enabled: only a quiescent block is so. -/
theorem quiescent_of_not_enabled {s : State} (hs : SequencerDriven s) (hcon : s.conHeld = false)
    (hptx : s.ptxHeld = false) (hseq : seqInstr s = none) (hfb : unitReady .fb s = false)
    (hhe : unitReady .he s = false) : Quiescent s := by
  obtain ⟨hf, ⟨-, hsignal⟩, ho, -⟩ := hs
  have hconNil := conHeld_eq_false.1 hcon
  obtain ⟨hst, hirq⟩ : s.st = .idle ∧ s.irqPend = false := by
    rcases seqInstr_cases s with ⟨-, hw⟩ | ⟨-, -, ⟨hsome, -⟩ | ⟨b, rest, hsome, -⟩ | ⟨hsome, -⟩⟩
    · simpa [hf, hconNil] using hw
    all_goals simp [hseq] at hsome
  have hempty : ∀ u, u ≠ .rt → unitReady u s = false → (s.port u).waiting = [] := by
    intro u hu hready
    by_contra hne
    obtain ⟨q, rest, hq⟩ := List.exists_cons_of_ne_nil hne
    have hhold : wordHolds (decode q) s = false := by
      have hown := owner_of_head ho hq
      cases u with
      | he => exact wordHolds_he hown s
      | fb => exact (wordHolds_fb hown s).trans hptx
      | rt => exact absurd rfl hu
    have htrue : unitReady u s = true := (unitReady_iff u s).2 ⟨hf, q, by simp [State.fetch, hq], hhold⟩
    simp [hready] at htrue
  refine ⟨hf, hst, hirq, ?_, hconNil, ptxHeld_eq_false.1 hptx, hempty .he (by simp) hhe, hempty .fb (by simp) hfb⟩
  by_contra hne
  simp [hsignal hst hne] at hirq

/-! ### The work that is left -/

/-- A bound on the steps left to the block and its sinks: a byte of the receive buffer may yet emit the header and its
three characters, an interrupt opens a burst that must end, a FRAME word emits at most ten bytes. -/
def work (s : State) : Nat :=
  s.conPend.length + (s.cfg.rxHeader.length + 4) * s.prxQ.length + 2 * s.irqPend.toNat + s.st.bit.toNat +
    s.ptxPend.length + 11 * s.fb.waiting.length + s.he.waiting.length

@[simp] theorem work_dropResponse (s : State) : work s.dropResponse = work s := rfl

theorem length_frameBytes_le (mode : ChecksumMode) (c : Command) : (frameBytes mode c).length ≤ 10 := by
  cases mode <;> cases c <;> decide

theorem length_pendingHeader_le (s : State) : s.pendingHeader.length ≤ s.cfg.rxHeader.length := by
  unfold State.pendingHeader
  split <;> simp

theorem acceptCon_work {s : State} (h : s.conHeld = true) : work s.acceptCon < work s := by
  rcases acceptCon_cases s with ⟨hnil, -⟩ | ⟨b, rest, hcons, hs⟩
  · simp [State.conHeld, hnil] at h
  · simp only [work, hs, hcons, List.length_cons]
    omega

theorem acceptPtx_work {s : State} (h : s.ptxHeld = true) : work s.acceptPtx < work s := by
  rcases acceptPtx_cases s with ⟨hnil, -⟩ | ⟨b, rest, hcons, hs⟩
  · simp [State.ptxHeld, hnil] at h
  · simp only [work, hs, hcons, List.length_cons]
    omega

theorem seqStep_work {s t : State} (hi : seqInstr s ≠ none) (h : seqStep s = .next t) : work t < work s := by
  rcases seqStep_cases s with ⟨hn, -⟩ | ⟨-, -, ⟨hst, hirq, hs⟩ | ⟨b, rest, hst, hq, hs⟩ | ⟨hst, hq, hs⟩⟩
  · exact absurd hn hi
  · obtain rfl := Host.Outcome.next.inj (hs.symm.trans h)
    simp [work, hst, hirq, HandlerState.bit]
  · obtain rfl := Host.Outcome.next.inj (hs.symm.trans h)
    have hheader := length_pendingHeader_le s
    simp [work, hst, hq, HandlerState.bit, State.takePrx, digitPair, Nat.mul_succ]
    omega
  · obtain rfl := Host.Outcome.next.inj (hs.symm.trans h)
    simp [work, hst, hq, HandlerState.bit]

/-- A word of HE or FB that is at the head of its list and runs is taken off it; the bytes it emits weigh less. -/
theorem exec_work {i : Instr} {s t : State} (ho : i.owner ≠ .rt) (hw : (s.port i.owner).waiting ≠ [])
    (hne : t ≠ s) (h : exec i s = .next t) : work t < work s := by
  have hlen : (s.port i.owner).waiting.tail.length < (s.port i.owner).waiting.length := by
    have hpos := List.length_pos_of_ne_nil hw
    rw [List.length_tail]
    omega
  rcases exec_cases h with rfl | ⟨f, -, hrt, -⟩ | ⟨v, -, rfl, rfl⟩ | ⟨c, -, hnil, hc, rfl⟩ | ⟨-, -, rfl, -⟩ |
    ⟨b, -, -, rfl, -⟩ | ⟨-, -, rfl, -⟩
  case inl => exact absurd rfl hne
  case inr.inl => exact absurd hrt ho
  case inr.inr.inl =>
    simp only [Instr.owner, State.port] at hlen
    simp [work]
    omega
  case inr.inr.inr.inl =>
    rw [owner_of_frameCommand hc] at hlen
    simp only [State.port] at hlen
    have hframe := length_frameBytes_le s.cfg.checksumMode c
    simp [work, hnil]
    omega
  all_goals exact absurd rfl ho

theorem runUnit_work {u : HwUnit} {s t : State} (hs : SequencerDriven s) (hr : unitReady u s = true)
    (h : runUnit u s = .next t) : work t < work s := by
  obtain ⟨q, rest, hq, hf, hh, hrun⟩ := runUnit_of_ready hr
  have hown := owner_of_head hs.owned hq
  have hne : t ≠ s := by
    rintro rfl
    simp [runUnit_eq_self_iff.1 h] at hr
  refine exec_work (fun hrt => ?_) (by simp [hown, hq]) hne (hrun.symm.trans h)
  obtain rfl : HwUnit.rt = u := hrt.symm.trans hown
  simp [State.port, hs.noDriver] at hq

theorem stepWith_work_lt {c : Choice} {s t : State} (hc : c ∈ insideChoices) (hs : SequencerDriven s)
    (he : enabled c s = true) (h : stepWith c s = .next t) : work t < work s := by
  rw [← enabled_dropResponse] at he
  rw [← work_dropResponse s]
  cases c with
  | arrive b | spurious | present q => simp [insideChoices] at hc
  | acceptCon => exact Host.Outcome.next.inj h ▸ acceptCon_work he
  | acceptPtx => exact Host.Outcome.next.inj h ▸ acceptPtx_work he
  | run u => exact runUnit_work (s := s.dropResponse) ⟨hs.unfaulted, hs.sound, hs.owned, hs.noDriver⟩ he h
  | seq =>
    obtain ⟨i, hi⟩ := (enabled_seq_iff s.dropResponse).1 he
    exact seqStep_work (by simp [hi]) h

theorem stepWith_work_le {c : Choice} {s t : State} (hc : c ∈ insideChoices) (hs : SequencerDriven s)
    (h : stepWith c s = .next t) : work t ≤ work s := by
  cases he : enabled c s with
  | true => exact (stepWith_work_lt hc hs he h).le
  | false =>
    obtain rfl := Host.Outcome.next.inj (((stepWith_eq_dropResponse_iff hc).2 he).symm.trans h)
    exact le_rfl

/-! ### Turns -/

theorem turn_bySequencerOnly {c : Choice} (hc : bySequencerOnly c) (s : State) : bySequencerOnly (turn c s) := by
  rcases turn_eq_choice_or_run c s with h | ⟨u, -, h⟩ <;> rw [h]
  · exact hc
  · exact fun q hq => nomatch hq

theorem turn_mem_insideChoices {c : Choice} (hc : c ∈ insideChoices) (s : State) : turn c s ∈ insideChoices := by
  rcases turn_eq_choice_or_run c s with h | ⟨u, -, h⟩ <;> rw [h]
  · exact hc
  · exact run_mem_insideChoices u

/-- A turn takes no enabled step only where its choice is not enabled and neither HE nor FB has a word to execute. -/
theorem of_turn_not_enabled {c : Choice} {s : State} (h : enabled (turn c s) s = false) :
    enabled c s = false ∧ unitReady .fb s = false ∧ unitReady .he s = false := by
  rcases turn_cases c s with ⟨he, ht⟩ | ⟨-, u, -, hr, ht⟩ | ⟨he, hfb, hhe, -⟩
  · simp [he] at h
  · simp [ht, hr] at h
  · exact ⟨he, hfb, hhe⟩

theorem trace_step (ch : Nat → Choice) (s : State) (n : Nat) :
    stepWith (turn (ch n) (trace ch s n)) (trace ch s n) = .next (trace ch s (n + 1)) := by
  obtain ⟨t, ht⟩ := stepWith_isNext (turn (ch n) (trace ch s n)) (trace ch s n)
  rw [trace_succ, ht]
  rfl

theorem trace_sequencerDriven {ch : Nat → Choice} {s : State} (hch : ∀ m, bySequencerOnly (ch m))
    (hs : SequencerDriven s) (m : Nat) : SequencerDriven (trace ch s m) := by
  induction m with
  | zero => exact hs
  | succ m ih => exact stepWith_sequencerDriven (turn_bySequencerOnly (hch m) _) ih (trace_step ch s m)

/-! ### Runs whose inputs have ended -/

section
variable {ch : Nat → Choice} {s : State} {n m : Nat}

theorem trace_work_le (hch : ∀ m, bySequencerOnly (ch m)) (hs : SequencerDriven s) (hend : InputsEndAt ch n)
    (hm : n ≤ m) {k : Nat} (hk : m ≤ k) : work (trace ch s k) ≤ work (trace ch s m) := by
  induction k, hk using Nat.le_induction with
  | base => exact le_rfl
  | succ k hk ih =>
    have hinside := turn_mem_insideChoices (mem_insideChoices (hend k (hm.trans hk))) (trace ch s k)
    exact (stepWith_work_le hinside (trace_sequencerDriven hch hs k) (trace_step ch s k)).trans ih

/-- While no turn takes an enabled step, the block stays as it is, but for a response of the step before. -/
theorem trace_dropResponse_eq (hend : InputsEndAt ch n) (hm : n ≤ m)
    (hidle : ∀ k, m ≤ k → enabled (turn (ch k) (trace ch s k)) (trace ch s k) = false) {k : Nat} (hk : m ≤ k) :
    (trace ch s k).dropResponse = (trace ch s m).dropResponse := by
  induction k, hk using Nat.le_induction with
  | base => rfl
  | succ k hk ih =>
    have hinside := turn_mem_insideChoices (mem_insideChoices (hend k (hm.trans hk))) (trace ch s k)
    have hstep := (stepWith_eq_dropResponse_iff hinside).2 (hidle k hk)
    rw [← Host.Outcome.next.inj (hstep.symm.trans (trace_step ch s k))]
    exact ih

/-- Fairness turns "no turn ever takes an enabled step" into "no step is enabled": a step that stayed enabled would be
chosen. -/
theorem quiescent_of_idle (hch : ∀ m, bySequencerOnly (ch m)) (hs : SequencerDriven s) (hend : InputsEndAt ch n)
    (hsink : SinkFair ch s) (hseq : SeqFair ch s) (hm : n ≤ m)
    (hidle : ∀ k, m ≤ k → enabled (turn (ch k) (trace ch s k)) (trace ch s k) = false) :
    Quiescent (trace ch s m) := by
  have hsame : ∀ c k, m ≤ k → enabled c (trace ch s k) = enabled c (trace ch s m) := fun c k hk => by
    rw [← enabled_dropResponse, trace_dropResponse_eq hend hm hidle hk, enabled_dropResponse]
  have hchosen : ∀ c, (∃ k, m ≤ k ∧ ch k = c) → enabled c (trace ch s m) = false := by
    rintro _ ⟨k, hk, rfl⟩
    obtain ⟨hck, -⟩ := of_turn_not_enabled (hidle k hk)
    exact (hsame _ k hk).symm.trans hck
  have hnever : ∀ c, ((∀ k, m ≤ k → enabled c (trace ch s k) = true) → ∃ k, m ≤ k ∧ ch k = c) →
      enabled c (trace ch s m) = false := fun c hfair => by
    cases he : enabled c (trace ch s m) with
    | false => rfl
    | true => exact he.symm.trans (hchosen c (hfair fun k hk => (hsame c k hk).trans he))
  obtain ⟨hconFair, hptxFair⟩ := hsink m
  obtain ⟨-, hfb, hhe⟩ := of_turn_not_enabled (hidle m le_rfl)
  refine quiescent_of_not_enabled (trace_sequencerDriven hch hs m) ?_ ?_ ?_ hfb hhe
  · exact hnever .acceptCon fun hall => hconFair fun k hk => conHeld_eq_true.1 (hall k hk)
  · exact hnever .acceptPtx fun hall => hptxFair fun k hk => ptxHeld_eq_true.1 (hall k hk)
  · have hno := hnever .seq fun hall => hseq m fun k hk => Option.isSome_iff_ne_none.1 (hall k hk)
    simpa [enabled] using hno

/-- From every turn after the inputs' end a quiescent state follows, by induction on the work left there. -/
theorem exists_quiescent (hch : ∀ m, bySequencerOnly (ch m)) (hs : SequencerDriven s) (hend : InputsEndAt ch n)
    (hsink : SinkFair ch s) (hseq : SeqFair ch s) (hm : n ≤ m) : ∃ k, m ≤ k ∧ Quiescent (trace ch s k) := by
  induction hw : work (trace ch s m) using Nat.strong_induction_on generalizing m with
  | _ w ih =>
    by_cases hidle : ∀ k, m ≤ k → enabled (turn (ch k) (trace ch s k)) (trace ch s k) = false
    · exact ⟨m, le_rfl, quiescent_of_idle hch hs hend hsink hseq hm hidle⟩
    · obtain ⟨k, hk, he⟩ : ∃ k, m ≤ k ∧ enabled (turn (ch k) (trace ch s k)) (trace ch s k) = true := by
        simpa using hidle
      have hinside := turn_mem_insideChoices (mem_insideChoices (hend k (hm.trans hk))) (trace ch s k)
      have hless : work (trace ch s (k + 1)) < w :=
        calc work (trace ch s (k + 1))
            < work (trace ch s k) :=
              stepWith_work_lt hinside (trace_sequencerDriven hch hs k) he (trace_step ch s k)
          _ ≤ work (trace ch s m) := trace_work_le hch hs hend hm hk
          _ = w := hw
      obtain ⟨j, hj, hq⟩ := ih _ hless (show n ≤ k + 1 by omega) rfl
      exact ⟨j, by omega, hq⟩

end

/-- Settles O45: the premises on the start state are the invariant of these runs. -/
theorem fairRunsReachQuiescence : Obligations.FairRunsReachQuiescence := by
  unfold Obligations.FairRunsReachQuiescence
  intro ch s n hf hsound ho hd hch hend hsink hseq
  exact exists_quiescent hch ⟨hf, hsound, ho, hd⟩ hend hsink hseq le_rfl

theorem runChoices_sequencerDriven {cs : List Choice} {s : State} (hs : SequencerDriven s)
    (hcs : ∀ c ∈ cs, bySequencerOnly c) : SequencerDriven (runChoices cs s) := by
  refine runChoices_induction (P := fun taken t => (∀ c ∈ taken, bySequencerOnly c) → SequencerDriven t)
    (fun _ => hs) (fun taken c t t' ih h hall => ?_) cs hcs
  exact stepWith_sequencerDriven (hall c (by simp)) (ih fun c' hc' => hall c' (by simp [hc'])) h

/-- Settles O46: reset meets the invariant, the steps before the run keep it, and O45's argument goes on from there. -/
theorem runsFromResetReachQuiescence : Obligations.RunsFromResetReachQuiescence := by
  unfold Obligations.RunsFromResetReachQuiescence
  intro cfg cs ch n hcs hch hend s hsink hseq
  exact exists_quiescent hch (runChoices_sequencerDriven (sequencerDriven_reset cfg) hcs) hend hsink hseq le_rfl

end Sys2Proof.Machine

/-! PROOF. O1, O2, O3: decoding is the inverse of encoding on the well-formed operations (R60 to R67), and the table of
R68 decodes the same way.  A word is its two fields, so each claim about a word is a claim about OP and D. -/

namespace Sys2Proof

/-! ### A word by its fields -/

/-- Decoding by the fields alone: the four families of R62 to R65. -/
theorem decode_mkWord (op : BitVec 2) (d : Byte) :
    decode (mkWord op d) =
      if op = 0b00 then .hex d else if op = 0b01 then decodeFrame d else if op = 0b10 then .rx d else decodeCtl d := by
  rw [decode, opField_mkWord, dField_mkWord]

theorem eq_mkWord_iff {q : ReqWord} {op : BitVec 2} {d : Byte} : q = mkWord op d ↔ opField q = op ∧ dField q = d := by
  constructor
  · rintro rfl
    exact ⟨opField_mkWord op d, dField_mkWord op d⟩
  · rintro ⟨rfl, rfl⟩
    exact (mkWord_fields q).symm

/-- The families' words written with their base: OP's two bits, then the operand byte (R60). -/
theorem mkWord_eq_or (op : BitVec 2) (d : Byte) : mkWord op d = mkWord op 0 ||| d.setWidth 10 := by
  simp [mkWord]

theorem toNat_eq_fields (q : ReqWord) : q.toNat = 256 * (opField q).toNat + (dField q).toNat := by
  simp only [opField, dField, BitVec.extractLsb'_toNat, Nat.shiftRight_eq_div_pow]
  omega

/-! ### Decoding the word of a well-formed operation -/

theorem decodeFrame_of_wellFormed {c : Byte} (h : (Instr.frameUnrec c).wellFormed = true) :
    decodeFrame c = .frameUnrec c := by
  have hc : c ∉ commandCodes := by simpa [Instr.wellFormed] using h
  unfold decodeFrame
  split_ifs
  case neg => rfl
  all_goals
    subst c
    exact absurd (by decide) hc

theorem decodeCtl_of_wellFormed {d : Byte} (h : (Instr.reserved d).wellFormed = true) : decodeCtl d = .reserved d := by
  obtain ⟨hbegin, hend⟩ : d ≠ 0x00 ∧ d ≠ 0x01 := by simpa [Instr.wellFormed] using h
  rw [decodeCtl, if_neg hbegin, if_neg hend]

/-- Settles O1: an operation with an operand is `mkWord` of its OP and operand, and its operand's range is what keeps the
exact matches of its family away; the words of the others are constants. -/
theorem decodeOfEncode : Obligations.DecodeOfEncode := by
  unfold Obligations.DecodeOfEncode
  intro i hwf
  cases i with
  | hex v => exact decode_mkWord 0b00 v
  | rx b => exact decode_mkWord 0b10 b
  | frameUnrec c => exact (decode_mkWord 0b01 c).trans (decodeFrame_of_wellFormed hwf)
  | reserved d => exact (decode_mkWord 0b11 d).trans (decodeCtl_of_wellFormed hwf)
  | _ => rfl

/-- Settles O3: each written-out word is the word of a well-formed operation. -/
theorem sampleWordsDecode : Obligations.SampleWordsDecode := by
  unfold Obligations.SampleWordsDecode
  exact ⟨decodeOfEncode (.hex 0x1A) rfl, decodeOfEncode .frameI rfl, decodeOfEncode .frameS rfl,
    decodeOfEncode (.frameUnrec 0x78) rfl, decodeOfEncode (.rx 0x41) rfl, decodeOfEncode .beginBurst rfl,
    decodeOfEncode .endBurst rfl, decodeOfEncode (.reserved 0xFF) rfl⟩

/-! ### Every word decodes to a well-formed operation -/

theorem decodeFrame_wellFormed (d : Byte) : (decodeFrame d).wellFormed = true := by
  by_cases hwf : (Instr.frameUnrec d).wellFormed = true
  · rw [decodeFrame_of_wellFormed hwf, hwf]
  · have hcodes : ∀ c ∈ commandCodes, (decodeFrame c).wellFormed = true := by decide
    exact hcodes d (by simpa [Instr.wellFormed] using hwf)

theorem decodeCtl_wellFormed (d : Byte) : (decodeCtl d).wellFormed = true := by
  by_cases hwf : (Instr.reserved d).wellFormed = true
  · rw [decodeCtl_of_wellFormed hwf, hwf]
  · have hselectors : ∀ c ∈ [(0x00 : Byte), 0x01], (decodeCtl c).wellFormed = true := by decide
    exact hselectors d (by simpa [Instr.wellFormed, or_iff_not_imp_left] using hwf)

theorem decode_wellFormed (q : ReqWord) : (decode q).wellFormed = true := by
  unfold decode
  split_ifs
  · rfl
  · exact decodeFrame_wellFormed _
  · rfl
  · exact decodeCtl_wellFormed _

/-! ### The table of R68 -/

/-- A row of the table that stands for one word. -/
def exactRow (op : BitVec 2) (d : Byte) (i : Instr) : OpcodeRow := ⟨0x3FF, mkWord op d, fun _ => i⟩

/-- A row of the table that stands for a whole family. -/
def familyRow (op : BitVec 2) (f : Byte → Instr) : OpcodeRow := ⟨0x300, mkWord op 0, f⟩

theorem opcodeRows_eq : opcodeRows =
    [familyRow 0b00 .hex,
     exactRow 0b01 0x69 .frameI, exactRow 0b01 0x70 .frameP, exactRow 0b01 0x6E .frameN, exactRow 0b01 0x73 .frameS,
     exactRow 0b01 0x76 .frameV, exactRow 0b01 0x71 .frameQ, exactRow 0b01 0x7A .frameZ, familyRow 0b01 .frameUnrec,
     familyRow 0b10 .rx,
     exactRow 0b11 0x00 .beginBurst, exactRow 0b11 0x01 .endBurst, familyRow 0b11 .reserved] := rfl

/-- The exact mask keeps every bit. -/
theorem hits_exactRow {op : BitVec 2} {d : Byte} {i : Instr} {q : ReqWord} :
    (exactRow op d i).hits q = true ↔ opField q = op ∧ dField q = d := by
  have hmask : q &&& 0x3FF = q := BitVec.and_allOnes
  simp only [OpcodeRow.hits, exactRow, hmask, beq_iff_eq, eq_mkWord_iff]

/-- The family mask keeps OP and clears D. -/
theorem and_familyMask (q : ReqWord) : q &&& 0x300 = mkWord (opField q) 0 := by
  have hop : opField (q &&& 0x300) = opField q := by
    rw [opField, BitVec.extractLsb'_and]
    exact BitVec.and_allOnes
  have hd : dField (q &&& 0x300) = 0 := by
    rw [dField, BitVec.extractLsb'_and]
    exact BitVec.and_zero
  exact eq_mkWord_iff.2 ⟨hop, hd⟩

theorem hits_familyRow {op : BitVec 2} {f : Byte → Instr} {q : ReqWord} :
    (familyRow op f).hits q = true ↔ opField q = op := by
  simp only [OpcodeRow.hits, familyRow, and_familyMask, beq_iff_eq, eq_mkWord_iff, opField_mkWord, dField_mkWord,
    and_true]

/-- Decoding by a list of rows: `decodeByTable` is the case of the whole table. -/
def decodeByRows (rows : List OpcodeRow) (q : ReqWord) : Option Instr :=
  (rows.find? (·.hits q)).map fun r => r.op (dField q)

theorem decodeByRows_cons (r : OpcodeRow) (rows : List OpcodeRow) (q : ReqWord) :
    decodeByRows (r :: rows) q = if r.hits q = true then some (r.op (dField q)) else decodeByRows rows q := by
  unfold decodeByRows
  rw [List.find?_cons]
  cases r.hits q <;> rfl

theorem decodeByTable_eq (q : ReqWord) : decodeByTable q = decodeByRows opcodeRows q := rfl

theorem decodeByRows_exactRow (op : BitVec 2) (d : Byte) (i : Instr) (rows : List OpcodeRow) (q : ReqWord) :
    decodeByRows (exactRow op d i :: rows) q =
      if opField q = op ∧ dField q = d then some i else decodeByRows rows q := by
  simp only [decodeByRows_cons, hits_exactRow]
  rfl

theorem decodeByRows_familyRow (op : BitVec 2) (f : Byte → Instr) (rows : List OpcodeRow) (q : ReqWord) :
    decodeByRows (familyRow op f :: rows) q = if opField q = op then some (f (dField q)) else decodeByRows rows q := by
  simp only [decodeByRows_cons, hits_familyRow]
  rfl

/-- The rows of an OP are its family's decoder: the exact matches in order, then the rest. -/
theorem decodeByTable_eq_decode (q : ReqWord) : decodeByTable q = some (decode q) := by
  rw [decodeByTable_eq, opcodeRows_eq]
  simp only [decodeByRows_exactRow, decodeByRows_familyRow, decode]
  by_cases h0 : opField q = 0b00
  · simp [h0]
  by_cases h1 : opField q = 0b01
  · simp [h1, decodeFrame, apply_ite some]
  by_cases h2 : opField q = 0b10
  · simp [h2]
  · simp [op_eq_three h0 h1 h2, decodeCtl, apply_ite some]

/-! ### The reserved words -/

/-- A reserved operation is the word of OP 3 with its selector, which is neither BEGIN's nor END's (R66). -/
theorem decode_eq_reserved_iff {q : ReqWord} {d : Byte} :
    decode q = .reserved d ↔ opField q = 0b11 ∧ dField q = d ∧ (Instr.reserved d).wellFormed = true := by
  constructor
  · intro h
    have hq : q = mkWord 0b11 d := by rw [← encode_decode q, h, encode]
    obtain ⟨hop, hd⟩ := eq_mkWord_iff.1 hq
    exact ⟨hop, hd, h ▸ decode_wellFormed q⟩
  · rintro ⟨hop, hd, hwf⟩
    rw [eq_mkWord_iff.2 ⟨hop, hd⟩]
    exact decodeOfEncode (.reserved d) hwf

theorem isReserved_iff {q : ReqWord} : (∃ d, decode q = .reserved d) ↔ 0x302 ≤ q.toNat := by
  have hop : opField q = 0b11 ↔ (opField q).toNat = 3 := BitVec.toNat_inj.symm
  have hwf : (Instr.reserved (dField q)).wellFormed = true ↔ 2 ≤ (dField q).toNat := by
    simp [Instr.wellFormed, ← BitVec.toNat_inj]
    omega
  have hop_lt := (opField q).isLt
  have hd_lt := (dField q).isLt
  simp only [decode_eq_reserved_iff, exists_and_left, exists_eq_left', hop, hwf, toNat_eq_fields q]
  omega

theorem dField_eq_setWidth (q : ReqWord) : dField q = q.setWidth 8 := by
  rw [dField, BitVec.setWidth_eq_extractLsb' (by omega)]

theorem exec_reserved {s : Machine.State} (hf : s.fault = none) (d : Byte) :
    Machine.exec (.reserved d) s = .next (s.raise (.reservedRequest d)) := by
  rw [Machine.exec, Machine.execReserved, Machine.unitStep_runs hf rfl]

/-- Settles O2: the decoder's image and its inverse, the table as the same case split on OP, and the reserved words as
those of OP 3 with D at least 2. -/
theorem everyWordSelectsOneOperation : Obligations.EveryWordSelectsOneOperation := by
  unfold Obligations.EveryWordSelectsOneOperation
  intro q
  refine ⟨decode_wellFormed q, encode_decode q, decode_owner q, decodeByTable_eq_decode q, isReserved_iff, ?_⟩
  intro hq s hf
  obtain ⟨d, hd⟩ := isReserved_iff.2 hq
  obtain ⟨-, rfl, -⟩ := decode_eq_reserved_iff.1 hd
  rw [hd, exec_reserved hf, dField_eq_setWidth]
  rfl

end Sys2Proof

/-! PROOF. O32: ownership of the request lists along `step` (R72). -/

namespace Sys2Proof.Machine

/-- Settles O32: choosing the step and dropping the response leave the lists alone, and every agent's step keeps them
owned. -/
theorem portsOwnedIsKept : Obligations.PortsOwnedIsKept := by
  unfold Obligations.PortsOwnedIsKept
  intro s t ho h
  have hstart : PortsOwned s.afterChoice.dropResponse := by simpa [PortsOwned] using ho
  exact agentStep_portsOwned hstart h

end Sys2Proof.Machine

/-! PROOF. O47: assembly text (R69, R70).  A line's word is `mkWord`, and its operand is read back character by
character. -/

namespace Sys2Proof.Machine

/-- A digit's character reads back as the digit (R69, R80). -/
theorem asmDigit_hexDigit (n : Nibble) : asmDigit (Char.ofNat (hexDigit n).toNat) = some n := by
  revert n
  decide

/-- A byte is its two digits (R11). -/
theorem join_nibbles (b : Byte) : (hiNibble b).setWidth 8 <<< 4 ||| (loNibble b).setWidth 8 = b := by
  unfold hiNibble loNibble
  ext i hi
  by_cases h4 : i < 4
  · simp [h4, hi]
  · have hcol : 4 + (i - 4) = i := by omega
    have hlt : i - 4 < 4 := by omega
    simp [h4, hcol, hlt, BitVec.getLsbD_eq_getElem hi]

theorem takeByte_hex {a b : Char} {h l : Nibble} (ha : asmDigit a = some h) (hb : asmDigit b = some l)
    (rest : List Char) :
    takeByte ('0' :: 'x' :: a :: b :: rest) = some (h.setWidth 8 <<< 4 ||| l.setWidth 8, rest) := by
  simp [takeByte, ha, hb]

theorem takeByte_quoted {c : Char} (hc : printable c = true) (rest : List Char) :
    takeByte ('\'' :: c :: '\'' :: rest) = some (BitVec.ofNat 8 c.toNat, rest) := by
  simp [takeByte, hc]

theorem burst_words_decode (bs : List Byte) :
    (AsmLine.burst bs).words.map decode = [.beginBurst] ++ bs.map .rx ++ [.endBurst] := by
  have hrx : decode ∘ mkWord 0b10 = .rx := funext fun b => decode_mkWord 0b10 b
  have hbegin : decode 0x300 = .beginBurst := decodeOfEncode .beginBurst rfl
  have hend : decode 0x301 = .endBurst := decodeOfEncode .endBurst rfl
  simp only [AsmLine.words, burstWords, List.map_append, List.map_map, List.map_cons, List.map_nil, hrx, hbegin, hend]

/-- Settles O47: the lines' words are `mkWord` with the base of their OP, a byte's two forms are read character by
character, and the remaining texts are computed. -/
theorem assemblyLinesStandForTheirWords : Obligations.AssemblyLinesStandForTheirWords := by
  unfold Obligations.AssemblyLinesStandForTheirWords
  have hhex (b : Byte) : mkWord 0b00 b = b.setWidth 10 := (mkWord_eq_or 0b00 b).trans BitVec.zero_or
  have hframe : mkWord 0b01 = fun b => 0x100 ||| b.setWidth 10 := funext (mkWord_eq_or 0b01)
  have hrx : mkWord 0b10 = fun b => 0x200 ||| b.setWidth 10 := funext (mkWord_eq_or 0b10)
  refine ⟨fun b => ⟨?_, ?_, ?_⟩, rfl, rfl, fun bs => ⟨?_, burst_words_decode bs⟩, fun b rest => ?_,
    fun c rest hlo hhi => ?_, by decide, by decide, by decide, by decide, by decide⟩
  · rw [AsmLine.words, hhex]
  · rw [AsmLine.words, hframe]
  · rw [AsmLine.words, hrx]
  · rw [AsmLine.words, burstWords, hrx]
  · have hread := takeByte_hex (asmDigit_hexDigit (hiNibble b)) (asmDigit_hexDigit (loNibble b)) rest
    rwa [join_nibbles] at hread
  · exact takeByte_quoted (by simp [printable, hlo, hhi]) rest

end Sys2Proof.Machine

/-! PROOF. O6, O5: the Hex Encoder (R80 to R83).  The digit map as an equation per range of the digit's value; from it
the alphabet and the inverse of the map, and from those the round trip and injectivity. -/

namespace Sys2Proof.Machine

/-! ### The digit map (R80) -/

/-- A base that leaves room for a digit gives the digit's code without wrapping. -/
theorem toNat_add_digit {base : Byte} (h : base.toNat ≤ 0xF0) (n : Nibble) :
    (base + n.setWidth 8).toNat = base.toNat + n.toNat := by
  have hlt := n.isLt
  rw [BitVec.toNat_add, BitVec.toNat_setWidth]
  omega

theorem hexDigit_toNat_of_le_nine {n : Nibble} (h : n.toNat ≤ 9) : (hexDigit n).toNat = 0x30 + n.toNat := by
  rw [hexDigit, if_pos (BitVec.le_def.2 h)]
  exact toNat_add_digit (by decide) n

theorem hexDigit_toNat_of_ten_le {n : Nibble} (h : 10 ≤ n.toNat) : (hexDigit n).toNat = 0x37 + n.toNat := by
  have hgt : ¬ n ≤ 9 := mt BitVec.le_def.1 (Nat.not_le.2 h)
  rw [hexDigit, if_neg hgt]
  exact toNat_add_digit (by decide) n

/-- A digit lies in one of the two ranges of R80, with its character's code there. -/
theorem hexDigit_cases (n : Nibble) :
    (n.toNat ≤ 9 ∧ (hexDigit n).toNat = 0x30 + n.toNat) ∨
    (10 ≤ n.toNat ∧ n.toNat ≤ 15 ∧ (hexDigit n).toNat = 0x37 + n.toNat) := by
  rcases Nat.lt_or_ge n.toNat 10 with h | h
  · exact .inl ⟨Nat.le_of_lt_succ h, hexDigit_toNat_of_le_nine (Nat.le_of_lt_succ h)⟩
  · exact .inr ⟨h, Nat.le_of_lt_succ n.isLt, hexDigit_toNat_of_ten_le h⟩

/-- The output alphabet: the codes of `0`..`9` and `A`..`F` (R82). -/
theorem hexDigit_alphabet (n : Nibble) :
    (0x30 ≤ (hexDigit n).toNat ∧ (hexDigit n).toNat ≤ 0x39) ∨
    (0x41 ≤ (hexDigit n).toNat ∧ (hexDigit n).toNat ≤ 0x46) := by
  rcases hexDigit_cases n with ⟨h, hc⟩ | ⟨hlo, hhi, hc⟩
  · exact .inl ⟨by omega, by omega⟩
  · exact .inr ⟨by omega, by omega⟩

/-! ### The inverse of the digit map (R83) -/

theorem hexDigitValue_of_decimal {c : Byte} (hlo : 0x30 ≤ c.toNat) (hhi : c.toNat ≤ 0x39) :
    hexDigitValue c = some ((c - 0x30).setWidth 4) :=
  if_pos ⟨BitVec.le_def.2 hlo, BitVec.le_def.2 hhi⟩

theorem hexDigitValue_of_letter {c : Byte} (hlo : 0x41 ≤ c.toNat) (hhi : c.toNat ≤ 0x46) :
    hexDigitValue c = some ((c - 0x37).setWidth 4) := by
  have hdec : ¬ (0x30 ≤ c ∧ c ≤ 0x39) := fun ⟨_, hle⟩ =>
    absurd hlo (Nat.not_le.2 (Nat.lt_of_le_of_lt (BitVec.le_def.1 hle) (by decide)))
  rw [hexDigitValue, if_neg hdec, if_pos ⟨BitVec.le_def.2 hlo, BitVec.le_def.2 hhi⟩]

/-- Subtracting the base from a digit's code gives the digit back. -/
theorem setWidth_sub_eq {c base : Byte} {n : Nibble} (h : c.toNat = base.toNat + n.toNat) :
    (c - base).setWidth 4 = n := by
  have hle : base ≤ c := BitVec.le_def.2 (by omega)
  apply BitVec.eq_of_toNat_eq
  rw [BitVec.toNat_setWidth, BitVec.toNat_sub_of_le hle, h, Nat.add_sub_cancel_left, Nat.mod_eq_of_lt n.isLt]

theorem hexDigitValue_hexDigit (n : Nibble) : hexDigitValue (hexDigit n) = some n := by
  rcases hexDigit_cases n with ⟨h, hc⟩ | ⟨hlo, hhi, hc⟩
  · rw [hexDigitValue_of_decimal (by omega) (by omega), setWidth_sub_eq hc]
  · rw [hexDigitValue_of_letter (by omega) (by omega), setWidth_sub_eq hc]

/-! ### The round trip and injectivity (R83) -/

theorem hiNibble_toNat (v : Byte) : (hiNibble v).toNat = v.toNat / 16 := by
  rw [hiNibble, BitVec.extractLsb'_toNat, Nat.shiftRight_eq_div_pow]
  omega

theorem loNibble_toNat (v : Byte) : (loNibble v).toNat = v.toNat % 16 := by
  rw [loNibble, BitVec.extractLsb'_toNat, Nat.shiftRight_zero]

/-- Parsing an encoded byte: each character reads back as its digit, and the digits are quotient and rest by 16. -/
theorem parseHexPair_encodeHexByte (v : Byte) :
    parseHexPair (encodeHexByte v).1 (encodeHexByte v).2 = some v := by
  simp only [parseHexPair, encodeHexByte, hexDigitValue_hexDigit, hiNibble_toNat, loNibble_toNat, Nat.div_add_mod,
    BitVec.ofNat_toNat, BitVec.setWidth_eq]

theorem encodeHexByte_injective : Function.Injective encodeHexByte := by
  intro v w h
  have hparse := parseHexPair_encodeHexByte v
  rw [h, parseHexPair_encodeHexByte w] at hparse
  exact (Option.some.inj hparse).symm

/-- HE_OUT is the two characters side by side, the high digit's first (R33). -/
theorem heResponse_eq_append (v : Byte) : heResponse v = (encodeHexByte v).1 ++ (encodeHexByte v).2 := by
  rw [BitVec.append_def, BitVec.shiftLeftZeroExtend_eq, BitVec.setWidth'_eq]
  rfl

theorem heResponse_injective : Function.Injective heResponse := by
  intro v w h
  rw [heResponse_eq_append, heResponse_eq_append] at h
  have hhi := congrArg (BitVec.extractLsb' 8 8) h
  have hlo := congrArg (BitVec.extractLsb' 0 8) h
  rw [BitVec.extractLsb'_append_eq_left, BitVec.extractLsb'_append_eq_left] at hhi
  rw [BitVec.extractLsb'_append_eq_right, BitVec.extractLsb'_append_eq_right] at hlo
  exact encodeHexByte_injective (Prod.ext hhi hlo)

/-- Settles O6: the digit map by its two ranges, and the round trip from the map's inverse; two bytes with one response
have the same characters, so parsing gives the same byte. -/
theorem hexEncodingIsUppercaseAndInvertible : Obligations.HexEncodingIsUppercaseAndInvertible := by
  unfold Obligations.HexEncodingIsUppercaseAndInvertible
  refine ⟨fun n => ⟨hexDigit_toNat_of_le_nine, fun h => ?_⟩, fun v c hc => ?_, parseHexPair_encodeHexByte,
    fun v w h => heResponse_injective h⟩
  · have hcode := hexDigit_toNat_of_ten_le h
    exact ⟨by omega, hcode⟩
  · obtain rfl | rfl : c = hexDigit (hiNibble v) ∨ c = hexDigit (loNibble v) := by simpa [encodeHexByte] using hc
    · exact hexDigit_alphabet _
    · exact hexDigit_alphabet _

/-! ### HEX's word and step (R81) -/

/-- HEX's word is its operand, zero-extended: OP is 00 (R62). -/
theorem encode_hex (v : Byte) : encode (.hex v) = v.setWidth 10 :=
  (mkWord_eq_or 0b00 v).trans BitVec.zero_or

/-- HEX never holds (R45): without a fault it answers and retires its word, whatever is pending. -/
theorem exec_hex {s : State} (hf : s.fault = none) (v : Byte) :
    exec (.hex v) s = .next ((s.respond (heResponse v)).retireHe (encode (.hex v))) := by
  rw [exec, execHex, unitStep_runs hf rfl]

/-- Settles O5: decoding is the inverse of encoding, and the step is the skeleton of a word that never holds. -/
theorem hexAnswersItsTwoDigits : Obligations.HexAnswersItsTwoDigits := by
  unfold Obligations.HexAnswersItsTwoDigits
  intro v s
  rw [← encode_hex v]
  refine ⟨decodeOfEncode (.hex v) rfl, fun hf => ?_⟩
  rw [exec_hex hf]
  rfl

end Sys2Proof.Machine

/-! PROOF. O9, O7, O8: the Command Frame Builder (R90 to R101).  A 0x7E-framed frame is given by its fields, so its
checksum and the invariants are facts about any fields; every FRAME word, FRAME_UNREC's too, runs by one rule, which
emits its command's frame. -/

namespace Sys2Proof.Machine

/-! ### Frames by their fields (R91) -/

/-- The field structure of R91; `cs` is the place of the two checksum bytes, which may be absent. -/
def framedBy (id feedback param1 param2 : Byte) (cs : List Byte) : List Byte :=
  [0x7E, 0xFF, 0x06, id, feedback, param1, param2] ++ cs ++ [0xEF]

/-- A checksum word as the two bytes a frame carries, high byte first (R91, R92). -/
def checksumBytes (cs : BitVec 16) : List Byte := [(cs >>> 8).setWidth 8, cs.setWidth 8]

/-- The table's 0x7E-framed rows are those of every recognized command but `z`, with no checksum or with two bytes of
it (R90, R91). -/
theorem frameRom_eq_framedBy {c : Command} (hz : c ≠ .z) (hu : c ≠ .unrecognized) :
    ∃ id feedback param1 param2 cs, frameRom c = some (framedBy id feedback param1 param2 cs) ∧
      (cs.length = 0 ∨ cs.length = 2) := by
  cases c with
  | z => exact absurd rfl hz
  | unrecognized => exact absurd rfl hu
  | s => exact ⟨_, _, _, _, [0xFE, 0xEC], rfl, .inr rfl⟩
  | _ => exact ⟨_, _, _, _, [], rfl, .inl rfl⟩

theorem buildFrame_computed {c : Command} (hz : c ≠ .z) : buildFrame .computed c = (frameRom c).map withChecksum := by
  cases c with
  | z => exact absurd rfl hz
  | _ => rfl

theorem buildFrame_z (mode : ChecksumMode) : buildFrame mode .z = some [0x05] := by
  cases mode <;> rfl

theorem buildFrame_unrecognized (mode : ChecksumMode) : buildFrame mode .unrecognized = none := by
  cases mode <;> rfl

/-- The checksum covers VERSION to PARAM2, which stand before the checksum's own place (R92). -/
theorem checksumSum_framedBy (id feedback param1 param2 : Byte) (cs : List Byte) :
    checksumSum (framedBy id feedback param1 param2 cs) =
      0xFF + 0x06 + id.toNat + feedback.toNat + param1.toNat + param2.toNat := by
  simp [checksumSum, framedBy, ← Nat.add_assoc]

/-- Six bytes sum to at most 6 · 255 (R92). -/
theorem checksumSum_framedBy_le (id feedback param1 param2 : Byte) (cs : List Byte) :
    checksumSum (framedBy id feedback param1 param2 cs) ≤ 1530 := by
  rw [checksumSum_framedBy]
  omega

/-- COMPUTED keeps the fields and puts the checksum in its place, whatever the table has there (R92). -/
theorem withChecksum_framedBy (id feedback param1 param2 : Byte) (cs : List Byte) :
    withChecksum (framedBy id feedback param1 param2 cs) =
      framedBy id feedback param1 param2 (checksumBytes (checksum (framedBy id feedback param1 param2 cs))) :=
  rfl

/-- A 16-bit word is 256 times its high byte plus its low byte. -/
theorem toNat_checksumBytes (cs : BitVec 16) :
    256 * ((cs >>> 8).setWidth 8 : Byte).toNat + (cs.setWidth 8 : Byte).toNat = cs.toNat := by
  have hlt := cs.isLt
  rw [BitVec.toNat_setWidth, BitVec.toNat_setWidth, BitVec.toNat_ushiftRight, Nat.shiftRight_eq_div_pow]
  omega

/-- The checksum is the sum's two's complement in 16 bits (R92). -/
theorem checksumSum_add_checksum (t : List Byte) (h : checksumSum t ≤ 0x10000) :
    (checksumSum t + (checksum t).toNat) % 0x10000 = 0 := by
  rw [checksum, BitVec.toNat_ofNat]
  omega

/-- Settles O9: the table by its rows, the COMPUTED frame by the fields of its table frame, and the modular law as what
the checksum was chosen for. -/
theorem framesFollowTheTableAndTheChecksum : Obligations.FramesFollowTheTableAndTheChecksum := by
  unfold Obligations.FramesFollowTheTableAndTheChecksum
  refine ⟨fun _ => rfl, buildFrame_z, buildFrame_unrecognized, fun c hc => ?_⟩
  obtain ⟨hz, hu⟩ : c ≠ .z ∧ c ≠ .unrecognized := by
    constructor <;> rintro rfl <;> simp at hc
  obtain ⟨id, feedback, param1, param2, cs, hrom, hlen⟩ := frameRom_eq_framedBy hz hu
  refine ⟨_, hrom, rfl, List.getLast?_concat, rfl, by simpa [framedBy] using hlen, ?_⟩
  intro sum sumCs
  have hsum : sum = checksumSum (framedBy id feedback param1 param2 cs) :=
    (checksumSum_framedBy id feedback param1 param2 cs).symm
  have hcs : sumCs = checksum (framedBy id feedback param1 param2 cs) :=
    congrArg (fun S => BitVec.ofNat 16 ((0x10000 - S) % 0x10000)) hsum
  have hle : sum ≤ 1530 := hsum.trans_le (checksumSum_framedBy_le id feedback param1 param2 cs)
  have hframe : buildFrame .computed c = some (framedBy id feedback param1 param2 (checksumBytes sumCs)) := by
    rw [buildFrame_computed hz, hrom, Option.map_some, withChecksum_framedBy, hcs]
  refine ⟨hle, hframe, _, hframe, rfl, ?_⟩
  change (checksumSum (framedBy id feedback param1 param2 (checksumBytes sumCs)) +
    256 * ((sumCs >>> 8).setWidth 8 : Byte).toNat + (sumCs.setWidth 8 : Byte).toNat) % 0x10000 = 0
  rw [Nat.add_assoc, toNat_checksumBytes, checksumSum_framedBy, hcs, ← checksumSum_framedBy _ _ _ _ cs]
  exact checksumSum_add_checksum _ (by omega)

/-! ### The rule of every FRAME word (R93 to R100) -/

/-- A FRAME word waits while PTX_PEND is not empty (R45). -/
theorem exec_frame_waits {i : Instr} {c : Command} (h : frameCommand i = some c) {s : State} (hp : s.ptxPend ≠ []) :
    exec i s = .next s :=
  exec_waits (.inr ((wordHolds_frame h s).trans (ptxHeld_eq_true.2 hp)))

/-- A FRAME word that runs leaves its command's frame in PTX_PEND and is retired (R93 to R100). -/
theorem exec_frame_runs {i : Instr} {c : Command} (h : frameCommand i = some c) {s : State} (hf : s.fault = none)
    (hp : s.ptxPend = []) :
    exec i s =
      .next { s with ptxPend := frameBytes s.cfg.checksumMode c, fb := s.fb.retire (encode i) } := by
  rw [exec_frame h, frameStep, unitStep_runs hf (ptxHeld_eq_false.2 hp), State.emitPtx, hp, List.nil_append]
  rfl

/-- A FRAME operation emits the two frames that `buildFrame` gives its command. -/
theorem emitsFrame {i : Instr} {c : Command} {tableFrame computedFrame : List Byte} (hwf : i.wellFormed = true)
    (h : frameCommand i = some c) (htable : buildFrame .table c = some tableFrame)
    (hcomputed : buildFrame .computed c = some computedFrame) : EmitsFrame (encode i) i tableFrame computedFrame := by
  refine ⟨decodeOfEncode i hwf, rfl, fun s => ⟨exec_frame_waits h, fun hf hp => ⟨fun hmode => ?_, fun hmode => ?_⟩⟩⟩
  · rw [exec_frame_runs h hf hp, frameBytes, hmode, htable, Option.getD_some]
  · rw [exec_frame_runs h hf hp, frameBytes, hmode, hcomputed, Option.getD_some]

/-- Settles O7: the shared rule at each operation, with its command's frames evaluated. -/
theorem frameWordsEmitTheirFrames : Obligations.FrameWordsEmitTheirFrames := by
  unfold Obligations.FrameWordsEmitTheirFrames
  exact ⟨emitsFrame (i := .frameI) rfl rfl rfl rfl, emitsFrame (i := .frameP) rfl rfl rfl rfl,
    emitsFrame (i := .frameN) rfl rfl rfl rfl, emitsFrame (i := .frameS) rfl rfl rfl rfl,
    emitsFrame (i := .frameV) rfl rfl rfl rfl, emitsFrame (i := .frameQ) rfl rfl rfl rfl,
    emitsFrame (i := .frameZ) rfl rfl rfl rfl⟩

/-- Settles O8: an unrecognized byte's word is well formed, so it decodes to itself, and its command has no frame, so
what PTX_PEND gains is nothing. -/
theorem unrecognizedCommandEmitsNothing : Obligations.UnrecognizedCommandEmitsNothing := by
  unfold Obligations.UnrecognizedCommandEmitsNothing
  refine ⟨buildFrame_unrecognized, fun c hc => ?_⟩
  have hword : encode (.frameUnrec c) = 0x100 ||| c.setWidth 10 := mkWord_eq_or 0b01 c
  have hwf : (Instr.frameUnrec c).wellFormed = true := by simpa [Instr.wellFormed, commandCodes] using hc
  rw [← hword]
  refine ⟨decodeOfEncode _ hwf, fun s => ⟨exec_frame_waits rfl, fun hf hp => ?_⟩⟩
  rw [exec_frame_runs rfl hf hp, frameBytes, buildFrame_unrecognized, Option.getD_none, ← hp]

end Sys2Proof.Machine

/-! PROOF. O13, O10, O11, O12: the Receive Transcoder's words (R110 to R113).  A word that neither a fault nor the hold
keeps back raises its check's fault or, when the check passes, has its effect. -/

namespace Sys2Proof.Machine

/-! ### The checks, fault by fault (R130) -/

theorem beginCheck_of_servicing {s : State} (h : s.st = .servicing) : beginCheck s = some .nestedBurst := by
  rw [beginCheck, if_pos h]

theorem rxCheck_of_idle {s : State} (h : s.st = .idle) (b : Byte) : rxCheck b s = some (.rxOutsideBurst b) := by
  rw [rxCheck, if_pos h]

theorem rxCheck_of_mismatch {s : State} {b : Byte} (h : s.st = .servicing) (hq : s.prxQ.head? ≠ some b) :
    rxCheck b s = some (.rxMismatch b) := by
  simp [rxCheck, h, hq]

theorem endCheck_of_idle {s : State} (h : s.st = .idle) : endCheck s = some .endOutsideBurst := by
  rw [endCheck, if_pos h]

theorem endCheck_of_undrained {s : State} (h : s.st = .servicing) (hq : s.prxQ ≠ []) :
    endCheck s = some .endUndrained := by
  simp [endCheck, h, hq]

theorem unitStep_checked_raises {held : Bool} {s : State} {check : State → Option Fault} {act : State → State}
    {f : Fault} (hf : s.fault = none) (hh : held = false) (hcheck : check s = some f) :
    unitStep held s (checked check act) = .next (s.raise f) := by
  rw [unitStep_runs hf hh, checked, hcheck]

theorem unitStep_checked_acts {held : Bool} {s : State} {check : State → Option Fault} {act : State → State}
    (hf : s.fault = none) (hh : held = false) (hcheck : check s = none) :
    unitStep held s (checked check act) = .next (act s) := by
  rw [unitStep_runs hf hh, checked, hcheck]

/-! ### The words' effects -/

section
variable {s : State}

theorem exec_beginBurst_enters (hf : s.fault = none) (hc : s.conPend = []) (hst : s.st = .idle) :
    exec .beginBurst s =
      .next { s with irqPend := false, hdr := false, st := .servicing, rt := s.rt.retire (encode .beginBurst) } :=
  unitStep_checked_acts hf (conHeld_eq_false.2 hc) (beginCheck_eq_none.2 hst)

theorem exec_rx_transcodes {b : Byte} {rest : List Byte} (hf : s.fault = none) (hc : s.conPend = [])
    (hst : s.st = .servicing) (hq : s.prxQ = b :: rest) :
    exec (.rx b) s =
      .next { s with
        prxQ := rest, conPend := s.pendingHeader ++ digitPair b, hdr := true, rt := s.rt.retire (encode (.rx b)) } := by
  have hrun : exec (.rx b) s =
      .next ((s.takePrx.emitCon (s.pendingHeader ++ digitPair b)).markHeader.retireRt (encode (.rx b))) :=
    unitStep_checked_acts hf (conHeld_eq_false.2 hc) (rxCheck_eq_none.2 ⟨hst, by rw [hq, List.head?_cons]⟩)
  rw [hrun, State.takePrx, State.emitCon, hc, hq, List.nil_append, List.tail_cons]
  rfl

theorem exec_endBurst_leaves (hf : s.fault = none) (hc : s.conPend = []) (hst : s.st = .servicing)
    (hq : s.prxQ = []) :
    exec .endBurst s = .next { s with st := .idle, hdr := false, rt := s.rt.retire (encode .endBurst) } :=
  unitStep_checked_acts hf (conHeld_eq_false.2 hc) (endCheck_eq_none.2 ⟨hst, hq⟩)

end

/-- Settles O13: the selector's word is well formed, and RESERVED has no hold. -/
theorem reservedWordRaises : Obligations.ReservedWordRaises := by
  unfold Obligations.ReservedWordRaises
  refine fun d => ⟨fun hbegin hend => ?_, fun s hf => exec_reserved hf d⟩
  have hword : encode (.reserved d) = 0x300 ||| d.setWidth 10 := mkWord_eq_or 0b11 d
  rw [← hword]
  exact decodeOfEncode (.reserved d) (by simpa [Instr.wellFormed] using ⟨hbegin, hend⟩)

/-- Settles O10: the hold, then BEGIN's check in each state. -/
theorem beginEntersABurst : Obligations.BeginEntersABurst := by
  unfold Obligations.BeginEntersABurst
  refine ⟨decodeOfEncode .beginBurst rfl, fun s => ⟨fun hc => ?_, fun hf hc hst => ?_, exec_beginBurst_enters⟩⟩
  · exact exec_waits (.inr (conHeld_eq_true.2 hc))
  · exact unitStep_checked_raises hf (conHeld_eq_false.2 hc) (beginCheck_of_servicing hst)

/-- RX's word written with the base of its OP (R64). -/
theorem encode_rx (b : Byte) : encode (.rx b) = 0x200 ||| b.setWidth 10 := mkWord_eq_or 0b10 b

/-- Settles O11: the hold, then RX's checks in R137's order; past them the step is `exec_rx_transcodes`. -/
theorem rxTranscodesOneByte : Obligations.RxTranscodesOneByte := by
  unfold Obligations.RxTranscodesOneByte
  intro b
  rw [← encode_rx b]
  refine ⟨decodeOfEncode (.rx b) rfl, fun s => ⟨fun hc => ?_, fun hf hc hst => ?_, fun hf hc hst hq => ?_,
    fun rest => exec_rx_transcodes⟩⟩
  · exact exec_waits (.inr (conHeld_eq_true.2 hc))
  · exact unitStep_checked_raises hf (conHeld_eq_false.2 hc) (rxCheck_of_idle hst b)
  · exact unitStep_checked_raises hf (conHeld_eq_false.2 hc) (rxCheck_of_mismatch hst hq)

/-- Settles O12: the hold, then END's checks in R137's order; past them the step is `exec_endBurst_leaves`. -/
theorem endLeavesTheBurst : Obligations.EndLeavesTheBurst := by
  unfold Obligations.EndLeavesTheBurst
  refine ⟨decodeOfEncode .endBurst rfl, fun s => ⟨fun hc => ?_, fun hf hc hst => ?_, fun hf hc hst hq => ?_,
    exec_endBurst_leaves⟩⟩
  · exact exec_waits (.inr (conHeld_eq_true.2 hc))
  · exact unitStep_checked_raises hf (conHeld_eq_false.2 hc) (endCheck_of_idle hst)
  · exact unitStep_checked_raises hf (conHeld_eq_false.2 hc) (endCheck_of_undrained hst hq)

end Sys2Proof.Machine

/-! PROOF. O31: the handler's invariant along `step` (R23, R115). -/

namespace Sys2Proof.Machine

/-- Settles O31: choosing the step and dropping the response leave the handler alone, and every agent's step keeps its
invariant. -/
theorem handlerSoundIsKept : Obligations.HandlerSoundIsKept := by
  unfold Obligations.HandlerSoundIsKept
  intro s t hs h
  have hstart : HandlerSound s.afterChoice.dropResponse := by simpa [HandlerSound] using hs
  exact agentStep_handlerSound hstart h

end Sys2Proof.Machine

/-! PROOF. O35: the account of received bytes (R121) together with the console law (R46, R120).  Each of RT's three words
has its own effect on the bursts executed so far; no other step touches them, and only an arrival adds a byte. -/

namespace Sys2Proof.Machine

/-! ### Bursts and their output (R117, R120) -/

theorem burstsOf_append_encode {i : Instr} (hi : i.wellFormed = true) (ws : List ReqWord) :
    burstsOf (ws ++ [encode i]) = burstStep (burstsOf ws) i := by
  simp [burstsOf, decodeOfEncode i hi]

/-- RX adds its byte to the burst that is open. -/
theorem burstStep_rx (closed : List (List Byte)) (opened : List Byte) (b : Byte) :
    burstStep (closed ++ [opened]) (.rx b) = closed ++ [opened ++ [b]] := by
  simp [burstStep]

/-- A byte adds its digit pair to its burst's output, the first byte the header before it (R111). -/
theorem burstOut_append_singleton (header bytes : List Byte) (b : Byte) :
    burstOut header (bytes ++ [b]) =
      burstOut header bytes ++ ((if bytes = [] then header else []) ++ digitPair b) := by
  cases bytes with
  | nil => simp [burstOut]
  | cons a as => simp [burstOut]

/-! ### The account -/

/-- Every byte received so far, in order: those of the executed bursts, then those still queued (R121). -/
def receivedBytes (s : State) : List Byte := (burstsOf s.rt.done).flatten ++ s.prxQ

/-- The console law holds of `t`, and `t` accounts for the bytes of `s` and, after them, `arrived`. -/
def AccountsFor (arrived : List Byte) (s t : State) : Prop :=
  ConLaw t ∧ receivedBytes t = receivedBytes s ++ arrived

theorem AccountsFor.refl {s : State} (hl : ConLaw s) : AccountsFor [] s s := ⟨hl, (List.append_nil _).symm⟩

/-- BEGIN opens an empty burst, which has no output. -/
theorem enterBurst_accountsFor {s : State} (hl : ConLaw s) :
    AccountsFor [] s (s.enterBurst.retireRt (encode .beginBurst)) := by
  obtain ⟨hout, -, -⟩ := hl
  have hbursts : burstsOf (s.rt.done ++ [encode .beginBurst]) = burstsOf s.rt.done ++ [[]] :=
    burstsOf_append_encode rfl _
  refine ⟨⟨?_, ?_, ?_⟩, ?_⟩
  · simp [hbursts, hout, burstOut]
  · simp [hbursts]
  · simp
  · simp [receivedBytes, hbursts]

/-- RX moves the buffer's head to the open burst; HDR says whether the burst's output has its header yet. -/
theorem transcode_accountsFor {s : State} {b : Byte} (hl : ConLaw s) (hst : s.st = .servicing)
    (hc : s.conPend = []) (hq : s.prxQ.head? = some b) :
    AccountsFor [] s
      ((s.takePrx.emitCon (s.pendingHeader ++ digitPair b)).markHeader.retireRt (encode (.rx b))) := by
  obtain ⟨hout, hburst, -⟩ := hl
  obtain ⟨hne, hhdr⟩ := hburst hst
  obtain ⟨closed, opened, hopen⟩ : ∃ closed opened, burstsOf s.rt.done = closed ++ [opened] :=
    ⟨_, _, (List.dropLast_append_getLast hne).symm⟩
  obtain ⟨rest, hrest⟩ := List.head?_eq_some_iff.1 hq
  have hbursts : burstsOf (s.rt.done ++ [encode (.rx b)]) = closed ++ [opened ++ [b]] := by
    rw [burstsOf_append_encode rfl, hopen, burstStep_rx]
  have hheader : s.pendingHeader = if opened = [] then s.cfg.rxHeader else [] := by
    have hdr_iff : s.hdr = true ↔ opened ≠ [] := by simpa [hopen] using hhdr
    by_cases ho : opened = [] <;> simp [State.pendingHeader, hdr_iff, ho]
  refine ⟨⟨?_, ?_, ?_⟩, ?_⟩
  · have hstream : s.conOut = (closed ++ [opened]).flatMap (burstOut s.cfg.rxHeader) := by
      simpa [hc, hopen] using hout
    simp [hbursts, hc, hstream, hheader, burstOut_append_singleton]
  · simp [hbursts]
  · simp [hst]
  · simp [receivedBytes, hbursts, hopen, hrest]

/-- END closes the burst as it is. -/
theorem leaveBurst_accountsFor {s : State} (hl : ConLaw s) :
    AccountsFor [] s (s.leaveBurst.retireRt (encode .endBurst)) := by
  obtain ⟨hout, -, -⟩ := hl
  have hbursts : burstsOf (s.rt.done ++ [encode .endBurst]) = burstsOf s.rt.done := burstsOf_append_encode rfl _
  refine ⟨⟨?_, ?_, ?_⟩, ?_⟩
  · simp [hbursts, hout]
  · simp
  · simp
  · simp [receivedBytes, hbursts]

/-! ### Every step -/

theorem exec_accountsFor {i : Instr} {s t : State} (hl : ConLaw s) (h : exec i s = .next t) : AccountsFor [] s t := by
  rcases exec_cases h with rfl | ⟨f, -, -, rfl⟩ | ⟨v, -, -, rfl⟩ | ⟨c, -, -, -, rfl⟩ | ⟨-, -, rfl, -, rfl⟩ |
    ⟨b, -, hc, rfl, hst, hq, rfl⟩ | ⟨-, -, rfl, -, -, rfl⟩
  case inl | inr.inl | inr.inr.inl | inr.inr.inr.inl => exact AccountsFor.refl hl
  · exact enterBurst_accountsFor hl
  · exact transcode_accountsFor hl hst hc hq
  · exact leaveBurst_accountsFor hl

theorem agentStep_accountsFor {c : Choice} {s t : State} (hl : ConLaw s) (h : agentStep c s = .next t) :
    AccountsFor (arrivedBytes c) s t := by
  cases c with
  | run u =>
    rcases runUnit_next h with rfl | ⟨q, rest, -, he⟩
    · exact AccountsFor.refl hl
    · exact exec_accountsFor hl he
  | seq =>
    rcases seqStep_next h with rfl | ⟨i, -, he⟩
    · exact AccountsFor.refl hl
    · exact exec_accountsFor (s := s.issueRt (encode i)) hl he
  | acceptCon =>
    obtain rfl := Host.Outcome.next.inj h
    simpa [AccountsFor, ConLaw, receivedBytes, arrivedBytes, acceptCon_stream] using hl
  | present q =>
    obtain rfl := Host.Outcome.next.inj h
    have hdone : (s.present q).rt.done = s.rt.done := s.present_done q .rt
    simpa [AccountsFor, ConLaw, receivedBytes, arrivedBytes, hdone] using hl
  | _ =>
    obtain rfl := Host.Outcome.next.inj h
    simpa [AccountsFor, ConLaw, receivedBytes, arrivedBytes] using hl

/-- Settles O35: choosing the step and dropping the response leave the console channel alone, and every agent's step
keeps the account. -/
theorem everyByteIsAccountedFor : Obligations.EveryByteIsAccountedFor := by
  unfold Obligations.EveryByteIsAccountedFor
  intro s t hl h
  have hstart : ConLaw s.afterChoice.dropResponse := by simpa [ConLaw] using hl
  simpa [AccountsFor, receivedBytes] using agentStep_accountsFor hstart h

end Sys2Proof.Machine

/-! PROOF. O22, O40: the sequencer (R118 to R120).  Its word by the state, then that word's effect; a burst drains byte
by byte, each RX followed by the console sink's acceptances. -/

namespace Sys2Proof.Machine

/-! ### The sequencer's steps, case by case (R118) -/

section
variable {s : State}

theorem stepWith_seq_of_none (h : seqInstr s = none) : stepWith .seq s = .next s.dropResponse :=
  have hdrop : seqInstr s.dropResponse = none := h
  seqStep_eq_self_iff.2 hdrop

theorem stepWith_seq_of_some {i : Instr} (h : seqInstr s = some i) :
    stepWith .seq s = exec i (s.dropResponse.issueRt (encode i)) := by
  have hi : seqInstr s.dropResponse = some i := h
  rw [stepWith, agentStep, seqStep, hi]

theorem seqInstr_of_idle (hf : s.fault = none) (hc : s.conPend = []) (hst : s.st = .idle) :
    seqInstr s = if s.irqPend then some .beginBurst else none := by
  simp [seqInstr, State.halted, conHeld_eq_false.2 hc, hf, hst]

theorem seqInstr_of_servicing (hf : s.fault = none) (hc : s.conPend = []) (hst : s.st = .servicing) :
    seqInstr s = some (s.prxQ.head?.elim .endBurst .rx) := by
  cases hq : s.prxQ <;> simp [seqInstr, State.halted, conHeld_eq_false.2 hc, hf, hst, hq]

theorem stepWith_seq_begins (hf : s.fault = none) (hc : s.conPend = []) (hst : s.st = .idle)
    (hirq : s.irqPend = true) :
    stepWith .seq s =
      .next { s with
        heOut := none, irqPend := false, hdr := false, st := .servicing
        rt := { s.rt with done := s.rt.done ++ [0x300] } } := by
  rw [stepWith_seq_of_some (i := .beginBurst) (by rw [seqInstr_of_idle hf hc hst, if_pos hirq])]
  exact exec_beginBurst_enters (s := s.dropResponse.issueRt _) hf hc hst

theorem stepWith_seq_takes {b : Byte} {rest : List Byte} (hf : s.fault = none) (hc : s.conPend = [])
    (hst : s.st = .servicing) (hq : s.prxQ = b :: rest) :
    stepWith .seq s =
      .next { s with
        heOut := none, prxQ := rest, hdr := true, conPend := s.pendingHeader ++ digitPair b
        rt := { s.rt with done := s.rt.done ++ [0x200 ||| b.setWidth 10] } } := by
  rw [stepWith_seq_of_some (i := .rx b) (by rw [seqInstr_of_servicing hf hc hst, hq]; rfl), ← encode_rx]
  exact exec_rx_transcodes (s := s.dropResponse.issueRt _) hf hc hst hq

theorem stepWith_seq_ends (hf : s.fault = none) (hc : s.conPend = []) (hst : s.st = .servicing)
    (hq : s.prxQ = []) :
    stepWith .seq s =
      .next { s with
        heOut := none, st := .idle, hdr := false, rt := { s.rt with done := s.rt.done ++ [0x301] } } := by
  rw [stepWith_seq_of_some (i := .endBurst) (by rw [seqInstr_of_servicing hf hc hst, hq]; rfl)]
  exact exec_endBurst_leaves (s := s.dropResponse.issueRt _) hf hc hst hq

end

/-- Settles O22: a fault, the hold and the wait for an interrupt leave no word to choose; otherwise the word is BEGIN, RX
of the head or END, with that word's effect. -/
theorem sequencerChoosesItsWord : Obligations.SequencerChoosesItsWord := by
  unfold Obligations.SequencerChoosesItsWord
  intro s
  refine ⟨fun hw => ?_, fun hf hc => ⟨fun hst hirq => ?_, stepWith_seq_begins hf hc,
    fun b rest => stepWith_seq_takes hf hc, stepWith_seq_ends hf hc⟩, fun t h => ?_⟩
  · rcases seqInstr_cases s with ⟨hn, -⟩ | ⟨hf, hc, -⟩
    · exact stepWith_seq_of_none hn
    · simp [hf, hc] at hw
  · exact stepWith_seq_of_none (by simp [seqInstr_of_idle hf hc hst, hirq])
  · obtain ⟨hfault, -⟩ := seqStep_fault_waiting (s := s.dropResponse) h
    exact hfault

/-! ### Draining a burst (R119) -/

theorem runChoices_cons {c : Choice} {s t : State} (h : stepWith c s = .next t) (cs : List Choice) :
    runChoices (c :: cs) s = runChoices cs t := by
  rw [runChoices, h, Outcome.stateOr]

theorem runChoices_append (cs ds : List Choice) (s : State) :
    runChoices (cs ++ ds) s = runChoices ds (runChoices cs s) := by
  induction cs generalizing s with
  | nil => rfl
  | cons c cs ih => exact ih _

theorem State.dropResponse_of_none {s : State} (h : s.heOut = none) : s.dropResponse = s := by
  rw [State.dropResponse, ← h]

/-- The console sink accepts all that is pending, in order, in as many steps. -/
theorem runChoices_acceptCon_all {l : List Byte} {s : State} (hp : s.conPend = l) (hresp : s.heOut = none) :
    runChoices (List.replicate l.length .acceptCon) s = { s with conOut := s.conOut ++ l, conPend := [] } := by
  induction l generalizing s with
  | nil =>
    have hsame : { s with conPend := [] } = s := by rw [← hp]
    rw [List.append_nil, hsame]
    rfl
  | cons b rest ih =>
    have hstep : stepWith .acceptCon s = .next { s with conOut := s.conOut ++ [b], conPend := rest } := by
      rw [stepWith, State.dropResponse_of_none hresp, agentStep, acceptCon_of_cons hp]
    have hrest := ih (s := { s with conOut := s.conOut ++ [b], conPend := rest }) rfl hresp
    rw [List.length_cons, List.replicate_succ, runChoices_cons hstep, hrest, List.append_assoc, List.singleton_append]

/-- The state once the buffer's head `b`, with `rest` after it, has been taken and its output accepted. -/
def State.drainByte (s : State) (b : Byte) (rest : List Byte) : State :=
  { s with
    heOut := none, prxQ := rest, hdr := true, conPend := []
    conOut := s.conOut ++ (s.pendingHeader ++ digitPair b)
    rt := { s.rt with done := s.rt.done ++ [0x200 ||| b.setWidth 10] } }

/-- After the first byte of a burst no header is left to emit (R111). -/
theorem State.drainByte_pendingHeader (s : State) (b : Byte) (rest : List Byte) :
    (s.drainByte b rest).pendingHeader = [] := rfl

/-- One RX step and the sink's acceptances take one byte from the buffer to the stream. -/
theorem runChoices_drain_byte {s : State} {b : Byte} {rest : List Byte} (hf : s.fault = none)
    (hc : s.conPend = []) (hst : s.st = .servicing) (hq : s.prxQ = b :: rest) :
    runChoices (.seq :: List.replicate (s.pendingHeader.length + 3) .acceptCon) s = s.drainByte b rest := by
  have hlen : s.pendingHeader.length + 3 = (s.pendingHeader ++ digitPair b).length := by
    rw [List.length_append]
    rfl
  rw [runChoices_cons (stepWith_seq_takes hf hc hst hq), hlen]
  exact runChoices_acceptCon_all rfl rfl

/-- Settles O40: by induction on the buffer; after the first byte HDR is 1, so no later one has a header before it. -/
theorem burstDrainsEveryByte : Obligations.BurstDrainsEveryByte := by
  unfold Obligations.BurstDrainsEveryByte
  intro s hf hst hc
  induction hq : s.prxQ generalizing s with
  | nil =>
    rw [drainSteps, runChoices_cons (stepWith_seq_ends hf hc hst hq), runChoices]
    simp [hq]
  | cons b rest ih =>
    have hrest := ih (s.drainByte b rest) hf hst rfl rfl
    rw [State.drainByte_pendingHeader] at hrest
    rw [drainSteps, runChoices_append, runChoices_drain_byte hf hc hst hq, hrest]
    cases rest <;> simp [State.drainByte, hc]

end Sys2Proof.Machine

/-! PROOF. O15, O14, O42: faults and the interrupt that stays pending (R130, R131, R137, R139).  A word's fault is what
its own check answers once the hold lets it run; in a faulted state no word and so no agent of the block moves. -/

namespace Sys2Proof.Machine

/-! ### A fault stops the units (R131) -/

/-- A word that leaves a fault has not completed, so the fault is all that it wrote. -/
theorem exec_fault_precise {i : Instr} {s t : State} (h : exec i s = .next t) (hf : t.fault ≠ none) :
    t = { s with fault := t.fault } := by
  rcases exec_position_cases h with ⟨-, rfl⟩ | ⟨-, -, ⟨f, rfl⟩ | ⟨hnone, -⟩⟩
  · rfl
  · rfl
  · exact absurd hnone hf

section
variable {s : State}

theorem stepWith_run_of_fault (hf : s.fault ≠ none) (u : HwUnit) : stepWith (.run u) s = .next s.dropResponse := by
  rw [stepWith_eq_dropResponse_iff (run_mem_insideChoices u), enabled_run, Bool.eq_false_iff]
  intro hready
  obtain ⟨hnone, -⟩ := (unitReady_iff u s).1 hready
  exact hf hnone

theorem stepWith_seq_of_fault (hf : s.fault ≠ none) : stepWith .seq s = .next s.dropResponse := by
  rcases seqInstr_cases s with ⟨hn, -⟩ | ⟨hnone, -⟩
  · exact stepWith_seq_of_none hn
  · exact absurd hnone hf

/-- The agents of the block stand still, and the environment's steps do not write FAULT. -/
theorem stepWith_fault_sticky {c : Choice} {t : State} (hf : s.fault ≠ none) (h : stepWith c s = .next t) :
    t.fault = s.fault := by
  cases c with
  | run u =>
    obtain rfl := Host.Outcome.next.inj ((stepWith_run_of_fault hf u).symm.trans h)
    rfl
  | seq =>
    obtain rfl := Host.Outcome.next.inj ((stepWith_seq_of_fault hf).symm.trans h)
    rfl
  | _ =>
    obtain rfl := Host.Outcome.next.inj h
    simp

end

/-- Settles O15: the block's agents by the lemmas above, the environment's steps by O23, which asks nothing of FAULT. -/
theorem faultIsPreciseAndSticky : Obligations.FaultIsPreciseAndSticky := by
  unfold Obligations.FaultIsPreciseAndSticky
  refine ⟨fun i s t _ => exec_fault_precise, fun s hf => ?_⟩
  obtain ⟨harrive, hspurious, hcon, -, hptx, -⟩ := environmentStepsQueueAndAccept s
  exact ⟨fun i => exec_waits (.inl hf), stepWith_run_of_fault hf, stepWith_seq_of_fault hf, harrive, hspurious, hcon,
    hptx, fun c t => stepWith_fault_sticky hf, fun ⟨hnone, _⟩ => hf hnone, rfl⟩

/-! ### The fault table (R130) -/

theorem beginCheck_eq_some {s : State} {f : Fault} :
    beginCheck s = some f ↔ s.st = .servicing ∧ f = .nestedBurst := by
  simp [beginCheck, eq_comm]

/-- The state is checked before the buffer (R137). -/
theorem rxCheck_eq_some {b : Byte} {s : State} {f : Fault} :
    rxCheck b s = some f ↔
      (s.st = .idle ∧ f = .rxOutsideBurst b) ∨ (s.st = .servicing ∧ s.prxQ.head? ≠ some b ∧ f = .rxMismatch b) := by
  cases hst : s.st <;> simp [rxCheck, hst, eq_comm]

/-- The state is checked before the buffer (R137). -/
theorem endCheck_eq_some {s : State} {f : Fault} :
    endCheck s = some f ↔
      (s.st = .idle ∧ f = .endOutsideBurst) ∨ (s.st = .servicing ∧ s.prxQ ≠ [] ∧ f = .endUndrained) := by
  cases hst : s.st <;> simp [endCheck, hst, eq_comm]

/-- The fault that a word raises in a state without one: RESERVED's before the hold, BEGIN's, RX's and END's where
CON_PEND is empty (R137), and none of HEX and FRAME. -/
def raisedFault (i : Instr) (s : State) : Option Fault :=
  match i with
  | .reserved d => some (.reservedRequest d)
  | .beginBurst => if s.conPend = [] then beginCheck s else none
  | .rx b => if s.conPend = [] then rxCheck b s else none
  | .endBurst => if s.conPend = [] then endCheck s else none
  | _ => none

theorem checked_fault {check : State → Option Fault} {act : State → State} {s : State} (ha : (act s).fault = none) :
    (checked check act s).fault = check s := by
  rcases checked_cases check act s with ⟨f, hcheck, hr⟩ | ⟨hcheck, hr⟩ <;> simp [hr, hcheck, ha]

/-- A checked word of RT leaves what its check answers, and nothing while it is held. -/
theorem unitStep_checked_fault {check : State → Option Fault} {act : State → State} {s t : State}
    (hf : s.fault = none) (ha : (act s).fault = none) (h : unitStep s.conHeld s (checked check act) = .next t) :
    t.fault = if s.conPend = [] then check s else none := by
  by_cases hc : s.conPend = []
  · rw [unitStep_runs hf (conHeld_eq_false.2 hc)] at h
    obtain rfl := Host.Outcome.next.inj h
    rw [if_pos hc, checked_fault ha]
  · rw [unitStep_waits (.inr (conHeld_eq_true.2 hc))] at h
    obtain rfl := Host.Outcome.next.inj h
    rw [if_neg hc, hf]

theorem exec_fault_eq_raisedFault {i : Instr} {s t : State} (hf : s.fault = none) (h : exec i s = .next t) :
    t.fault = raisedFault i s := by
  cases i with
  | reserved d =>
    obtain rfl := Host.Outcome.next.inj ((exec_reserved hf d).symm.trans h)
    rfl
  | beginBurst | rx b | endBurst => exact unitStep_checked_fault hf hf h
  | _ => exact (exec_fault_of_owner (by simp [Instr.owner]) h).trans hf

/-- Settles O14: the fault a word leaves is `raisedFault`, whose rows are the checks' equations. -/
theorem faultsAreExactlyTheTable : Obligations.FaultsAreExactlyTheTable := by
  unfold Obligations.FaultsAreExactlyTheTable
  refine ⟨fun b => rfl, fun i s t f hf h => ?_⟩
  rw [exec_fault_eq_raisedFault hf h]
  cases i with
  | reserved d => simp [raisedFault, eq_comm]
  | beginBurst => simp [raisedFault, beginCheck_eq_some]
  | rx b =>
    have hmismatch : (s.prxQ = [] ∨ s.prxQ.head? ≠ some b) ↔ s.prxQ.head? ≠ some b :=
      or_iff_right_of_imp fun hnil => by simp [hnil]
    simp [raisedFault, rxCheck_eq_some, hmismatch]
  | endBurst => simp [raisedFault, endCheck_eq_some]
  | _ => simp [raisedFault]

/-! ### The interrupt after a burst (R139) -/

/-- Settles O42: END's step keeps IRQ_PEND and leaves ST at IDLE, which is where BEGIN is the sequencer's word. -/
theorem pendingInterruptIsTakenAfterEnd : Obligations.PendingInterruptIsTakenAfterEnd := by
  unfold Obligations.PendingInterruptIsTakenAfterEnd
  intro s hf hst hc hq hirq
  have hend := stepWith_seq_ends hf hc hst hq
  have hbegin := stepWith_seq_begins (s := { s with
    heOut := none, st := .idle, hdr := false, rt := { s.rt with done := s.rt.done ++ [0x301] } }) hf hc rfl hirq
  refine ⟨runChoices_cons hend [], ?_⟩
  rw [runChoices_cons hend, runChoices_cons hbegin, runChoices]
  simp [hst]

end Sys2Proof.Machine

/-! PROOF. O28: steps of different channels commute (R136).  The block's elements fall into three channels, one per
unit, beside FAULT and what no step of an agent writes.  A step that raises no fault writes its own channel alone, and
what it writes there does not depend on the other two; so either order puts the same channels together. -/

namespace Sys2Proof.Machine

/-! ### The channels -/

/-- `s` with the channel of the unit `u` as it is in `r`: HE's list and response, FB's list and the peripheral bytes, or
the receive side with the console bytes. -/
def State.splice (s : State) (u : HwUnit) (r : State) : State :=
  match u with
  | .he => { s with he := r.he, heOut := r.heOut }
  | .fb => { s with fb := r.fb, ptxPend := r.ptxPend, ptxOut := r.ptxOut }
  | .rt => { s with
      rt := r.rt, st := r.st, hdr := r.hdr, irqPend := r.irqPend, prxQ := r.prxQ, conPend := r.conPend, conOut := r.conOut }

/-- The channel that a step writes. -/
def choiceChannel : Choice → HwUnit
  | .arrive _ => .rt
  | .spurious => .rt
  | .acceptCon => .rt
  | .acceptPtx => .fb
  | .present q => wordOwner q
  | .run u => u
  | .seq => .rt

@[simp] theorem choiceChannel_run (u : HwUnit) : choiceChannel (.run u) = u := rfl

theorem State.splice_self (s : State) (u : HwUnit) : s.splice u s = s := by
  cases u <;> rfl

@[simp] theorem State.splice_fault (s r : State) (u : HwUnit) : (s.splice u r).fault = s.fault := by
  cases u <;> rfl

theorem State.splice_port {u v : HwUnit} (h : v ≠ u) (s r : State) : (s.splice v r).port u = s.port u := by
  cases v <;> cases u <;> trivial

theorem State.splice_comm {u v : HwUnit} (h : u ≠ v) (s r q : State) :
    (s.splice u r).splice v q = (s.splice v q).splice u r := by
  cases u <;> cases v <;> trivial

/-! ### What a step writes -/

theorem exec_writes {i : Instr} {s t : State} (hf : t.fault = s.fault) (h : exec i s = .next t) :
    t = s.splice i.owner t := by
  rcases exec_cases h with rfl | ⟨f, hs, -, rfl⟩ | ⟨v, -, rfl, rfl⟩ | ⟨c, -, -, hc, rfl⟩ | ⟨-, -, rfl, -, rfl⟩ |
    ⟨b, -, -, rfl, -, -, rfl⟩ | ⟨-, -, rfl, -, -, rfl⟩
  case inl => exact (t.splice_self _).symm
  case inr.inl => simp [hs] at hf
  case inr.inr.inr.inl =>
    rw [owner_of_frameCommand hc]
    rfl
  all_goals rfl

theorem runUnit_writes {u : HwUnit} {s t : State} (ho : PortsOwned s) (hf : t.fault = s.fault)
    (h : runUnit u s = .next t) : t = s.splice u t := by
  rcases runUnit_next h with rfl | ⟨q, rest, hq, he⟩
  · exact (t.splice_self u).symm
  · exact owner_of_head ho hq ▸ exec_writes hf he

theorem seqStep_writes {s t : State} (hf : t.fault = s.fault) (h : seqStep s = .next t) : t = s.splice .rt t := by
  rcases seqStep_next h with rfl | ⟨i, hi, he⟩
  · rfl
  · have hw : t = (s.issueRt (encode i)).splice .rt t := hi ▸ exec_writes hf he
    exact hw

theorem agentStep_writes {c : Choice} {s t : State} (ho : PortsOwned s) (hf : t.fault = s.fault)
    (h : agentStep c s = .next t) : t = s.splice (choiceChannel c) t := by
  cases c with
  | run u => exact runUnit_writes ho hf h
  | seq => exact seqStep_writes hf h
  | arrive b | spurious =>
    obtain rfl := Host.Outcome.next.inj h
    rfl
  | acceptCon =>
    obtain rfl := Host.Outcome.next.inj h
    rcases acceptCon_cases s with ⟨-, hs⟩ | ⟨b, rest, -, hs⟩ <;> rw [hs] <;> rfl
  | acceptPtx =>
    obtain rfl := Host.Outcome.next.inj h
    rcases acceptPtx_cases s with ⟨-, hs⟩ | ⟨b, rest, -, hs⟩ <;> rw [hs] <;> rfl
  | present q =>
    obtain rfl := Host.Outcome.next.inj h
    rw [choiceChannel]
    rcases present_cases s q with ⟨hq, hs⟩ | ⟨hq, hs⟩ | ⟨hq, hs⟩ <;> rw [hq, hs] <;> rfl

/-! ### What a step does not read -/

/-- The step does the same before a change of the state as after it. -/
def PassesOver (change : State → State) (f : State → Host.Outcome State Fault Refusal) : Prop :=
  ∀ s t, f s = .next t → f (change s) = .next (change t)

theorem unitStep_passesOver {change act : State → State} {held : State → Bool}
    (hfault : ∀ s, (change s).fault = s.fault) (hheld : ∀ s, held (change s) = held s)
    (hact : ∀ s, act (change s) = change (act s)) : PassesOver change fun s => unitStep (held s) s act := by
  intro s t h
  by_cases hw : s.fault ≠ none ∨ held s = true
  · obtain rfl := Host.Outcome.next.inj ((unitStep_waits hw).symm.trans h)
    exact unitStep_waits (by rwa [hfault, hheld])
  · obtain ⟨hf, hh⟩ : s.fault = none ∧ held s = false := by simpa using hw
    obtain rfl := Host.Outcome.next.inj ((unitStep_runs hf hh).symm.trans h)
    rw [← hact]
    exact unitStep_runs ((hfault s).trans hf) ((hheld s).trans hh)

theorem checked_passesOver {change act : State → State} {check : State → Option Fault}
    (hcheck : ∀ s, check (change s) = check s) (hraise : ∀ s f, (change s).raise f = change (s.raise f))
    (hact : ∀ s, act (change s) = change (act s)) (s : State) :
    checked check act (change s) = change (checked check act s) := by
  unfold checked
  rw [hcheck, hact]
  cases check s with
  | none => rfl
  | some f => exact hraise s f

section
variable {v : HwUnit} (r : State)

/-- A word's hold, checks and effect are its own channel's, FAULT's and the parameters'. -/
theorem exec_passesOver {i : Instr} (hv : v ≠ i.owner) : PassesOver (·.splice v r) (exec i) := by
  cases hc : frameCommand i with
  | some c =>
    rw [owner_of_frameCommand hc] at hv
    rw [show exec i = frameStep i c from funext (exec_frame hc)]
    cases v with
    | fb => exact absurd rfl hv
    | he | rt => exact unitStep_passesOver (fun _ => rfl) (fun _ => rfl) fun _ => rfl
  | none =>
    cases i with
    | hex w =>
      cases v with
      | he => exact absurd rfl hv
      | fb | rt => exact unitStep_passesOver (fun _ => rfl) (fun _ => rfl) fun _ => rfl
    | beginBurst | rx b | endBurst =>
      cases v with
      | rt => exact absurd rfl hv
      | he | fb =>
        exact unitStep_passesOver (fun _ => rfl) (fun _ => rfl)
          (checked_passesOver (fun _ => rfl) (fun _ _ => rfl) fun _ => rfl)
    | reserved d =>
      cases v with
      | rt => exact absurd rfl hv
      | he | fb => exact unitStep_passesOver (fun _ => rfl) (fun _ => rfl) fun _ => rfl
    | _ => simp [frameCommand] at hc

variable {s t : State}

theorem runUnit_splice {u : HwUnit} (ho : PortsOwned s) (hv : v ≠ u) (h : runUnit u s = .next t) :
    runUnit u (s.splice v r) = .next (t.splice v r) := by
  have hport := State.splice_port hv s r
  rcases runUnit_cases u s with ⟨hq, hrun⟩ | ⟨q, rest, hq, hrun⟩
  · obtain rfl := Host.Outcome.next.inj (hrun.symm.trans h)
    simp [runUnit, State.fetch, hport, hq]
  · have hpass := exec_passesOver r (owner_of_head ho hq ▸ hv) s t (hrun.symm.trans h)
    simpa [runUnit, State.fetch, hport, hq] using hpass

theorem seqInstr_splice (hv : v ≠ .rt) : seqInstr (s.splice v r) = seqInstr s := by
  cases v with
  | rt => exact absurd rfl hv
  | he | fb => rfl

theorem State.issueRt_splice (hv : v ≠ .rt) (q : ReqWord) : (s.splice v r).issueRt q = (s.issueRt q).splice v r := by
  cases v with
  | rt => exact absurd rfl hv
  | he | fb => rfl

theorem seqInstr_owner {i : Instr} (h : seqInstr s = some i) : i.owner = .rt := by
  rcases seqInstr_cases s with ⟨hi, -⟩ | ⟨-, -, ⟨hi, -⟩ | ⟨b, rest, hi, -⟩ | ⟨hi, -⟩⟩
  case inl => simp [hi] at h
  all_goals
    obtain rfl := Option.some.inj (hi.symm.trans h)
    rfl

theorem seqStep_splice (hv : v ≠ .rt) (h : seqStep s = .next t) : seqStep (s.splice v r) = .next (t.splice v r) := by
  unfold seqStep at h ⊢
  rw [seqInstr_splice r hv]
  cases hi : seqInstr s with
  | none =>
    obtain rfl : s = t := by simpa [hi] using h
    rfl
  | some i =>
    have hword : v ≠ i.owner := seqInstr_owner hi ▸ hv
    have hpass := exec_passesOver r hword (s.issueRt (encode i)) t (by simpa [hi] using h)
    simpa [State.issueRt_splice r hv] using hpass

theorem State.acceptCon_splice (hv : v ≠ .rt) (s : State) : (s.splice v r).acceptCon = s.acceptCon.splice v r := by
  cases v with
  | rt => exact absurd rfl hv
  | he | fb =>
    rcases acceptCon_cases s with ⟨hp, hs⟩ | ⟨b, rest, hp, hs⟩
    · rw [hs]
      exact acceptCon_of_nil hp
    · rw [hs]
      exact acceptCon_of_cons hp

theorem State.acceptPtx_splice (hv : v ≠ .fb) (s : State) : (s.splice v r).acceptPtx = s.acceptPtx.splice v r := by
  cases v with
  | fb => exact absurd rfl hv
  | he | rt =>
    rcases acceptPtx_cases s with ⟨hp, hs⟩ | ⟨b, rest, hp, hs⟩
    · rw [hs]
      exact acceptPtx_of_nil hp
    · rw [hs]
      exact acceptPtx_of_cons hp

theorem State.present_splice {q : ReqWord} (hv : v ≠ wordOwner q) (s : State) :
    (s.splice v r).present q = (s.present q).splice v r := by
  unfold State.present
  cases hq : wordOwner q with
  | he =>
    cases v with
    | he => exact absurd hq.symm hv
    | fb | rt => rfl
  | fb =>
    cases v with
    | fb => exact absurd hq.symm hv
    | he | rt => rfl
  | rt =>
    cases v with
    | rt => exact absurd hq.symm hv
    | he | fb => rfl

/-- What an agent's step does, it does whatever the other two channels hold. -/
theorem agentStep_splice {c : Choice} (ho : PortsOwned s) (hv : v ≠ choiceChannel c) (h : agentStep c s = .next t) :
    agentStep c (s.splice v r) = .next (t.splice v r) := by
  cases c with
  | run u => exact runUnit_splice r ho hv h
  | seq => exact seqStep_splice r hv h
  | acceptCon =>
    obtain rfl := Host.Outcome.next.inj h
    exact congrArg Host.Outcome.next (State.acceptCon_splice r hv s)
  | acceptPtx =>
    obtain rfl := Host.Outcome.next.inj h
    exact congrArg Host.Outcome.next (State.acceptPtx_splice r hv s)
  | present q =>
    obtain rfl := Host.Outcome.next.inj h
    exact congrArg Host.Outcome.next (State.present_splice r hv s)
  | arrive b | spurious =>
    obtain rfl := Host.Outcome.next.inj h
    cases v with
    | rt => exact absurd rfl hv
    | he | fb => rfl

end

/-! ### Two steps in either order -/

/-- Dropping the response is a change of HE's channel, so it may come before or after another channel's step. -/
theorem State.dropResponse_splice (s r : State) (u : HwUnit) :
    (s.dropResponse.splice u r).dropResponse = s.dropResponse.splice u r.dropResponse := by
  cases u <;> rfl

theorem State.splice_dropResponse (s r : State) (u : HwUnit) :
    (s.splice u r.dropResponse).dropResponse = (s.splice u r).dropResponse := by
  cases u <;> rfl

section
variable {c d : Choice} {s : State}

/-- After a step that raised no fault, a step of another channel does what it would have done before it. -/
theorem runChoices_pair {t t' : State} (ho : PortsOwned s) (hcd : choiceChannel c ≠ choiceChannel d)
    (hc : stepWith c s = .next t) (hd : stepWith d s = .next t') (hfc : t.fault = s.fault) (hfd : t'.fault = s.fault) :
    runChoices [c, d] s = (s.dropResponse.splice (choiceChannel d) t').splice (choiceChannel c) t.dropResponse := by
  have hfirst : t = s.dropResponse.splice (choiceChannel c) t := agentStep_writes ho hfc hc
  have hsecond : t' = s.dropResponse.splice (choiceChannel d) t' := agentStep_writes ho hfd hd
  have hdrop : t.dropResponse = s.dropResponse.splice (choiceChannel c) t.dropResponse :=
    (congrArg State.dropResponse hfirst).trans (s.dropResponse_splice t _)
  have hafter : stepWith d t = .next (t'.splice (choiceChannel c) t.dropResponse) := by
    have hpass := agentStep_splice t.dropResponse (s := s.dropResponse) ho hcd hd
    rwa [← hdrop] at hpass
  rw [runChoices_cons hc, runChoices_cons hafter, runChoices]
  exact congrArg (·.splice (choiceChannel c) t.dropResponse) hsecond

theorem runChoices_singleton {t : State} (h : stepWith c s = .next t) : runChoices [c] s = t := runChoices_cons h []

/-- Two steps of different channels that raise no fault commute, the response aside. -/
theorem runChoices_pair_comm_dropResponse (ho : PortsOwned s) (hcd : choiceChannel c ≠ choiceChannel d)
    (hfc : (runChoices [c] s).fault = s.fault) (hfd : (runChoices [d] s).fault = s.fault) :
    (runChoices [c, d] s).dropResponse = (runChoices [d, c] s).dropResponse := by
  obtain ⟨t, hc⟩ := stepWith_isNext c s
  obtain ⟨t', hd⟩ := stepWith_isNext d s
  rw [runChoices_singleton hc] at hfc
  rw [runChoices_singleton hd] at hfd
  rw [runChoices_pair ho hcd hc hd hfc hfd, runChoices_pair ho hcd.symm hd hc hfd hfc, State.splice_dropResponse,
    State.splice_dropResponse, State.splice_comm hcd]

/-- Only a step of HE answers. -/
theorem stepWith_heOut {t : State} (ho : PortsOwned s) (hc : c ≠ .run .he) (h : stepWith c s = .next t) :
    t.heOut = none := by
  rcases agentStep_heOut h with hkept | ⟨u, q, rest, v, hrun, hq, hv, -⟩
  · exact hkept
  · obtain rfl : HwUnit.he = u := by rw [← owner_of_head (s := s.dropResponse) ho hq, hv]; rfl
    exact absurd hrun hc

theorem runChoices_pair_dropResponse (ho : PortsOwned s) (hd : d ≠ .run .he) :
    (runChoices [c, d] s).dropResponse = runChoices [c, d] s := by
  obtain ⟨t, hc⟩ := stepWith_isNext c s
  obtain ⟨t', ht'⟩ := stepWith_isNext d t
  have hot : PortsOwned t := agentStep_portsOwned (s := s.dropResponse) ho hc
  rw [runChoices_cons hc, runChoices_singleton ht']
  exact State.dropResponse_of_none (stepWith_heOut hot hd ht')

/-- Two such steps, neither of them HE's, leave no response, so they commute. -/
theorem runChoices_pair_comm (ho : PortsOwned s) (hcd : choiceChannel c ≠ choiceChannel d) (hc : c ≠ .run .he)
    (hd : d ≠ .run .he) (hfc : (runChoices [c] s).fault = s.fault) (hfd : (runChoices [d] s).fault = s.fault) :
    runChoices [c, d] s = runChoices [d, c] s := by
  rw [← runChoices_pair_dropResponse ho hd, runChoices_pair_comm_dropResponse ho hcd hfc hfd,
    runChoices_pair_dropResponse ho hc]

/-- Only RT's words fault (R130), so no step of HE's or FB's channel does. -/
theorem runChoices_fault_of_channel (ho : PortsOwned s) (hc : choiceChannel c ≠ .rt) :
    (runChoices [c] s).fault = s.fault := by
  obtain ⟨t, h⟩ := stepWith_isNext c s
  rw [runChoices_singleton h]
  cases c with
  | run u =>
    rcases runUnit_next h with rfl | ⟨q, rest, hq, he⟩
    · rfl
    · have hword : (decode q).owner ≠ .rt := owner_of_head (s := s.dropResponse) ho hq ▸ hc
      exact exec_fault_of_owner (s := s.dropResponse) hword he
  | seq => exact absurd rfl hc
  | _ =>
    obtain rfl := Host.Outcome.next.inj h
    simp

end

/-- Settles O28: the named steps lie in RT's, FB's and HE's channels. -/
theorem stepsOfDifferentChannelsCommute : Obligations.StepsOfDifferentChannelsCommute := by
  unfold Obligations.StepsOfDifferentChannelsCommute
  intro s b q ho hq
  have hfree {d : Choice} : choiceChannel d ≠ .rt → (runChoices [d] s).fault = s.fault := runChoices_fault_of_channel ho
  refine ⟨fun c hc hfc => ?_, fun d hd => ?_⟩
  · obtain ⟨hcRt, hcHe⟩ : choiceChannel c = .rt ∧ c ≠ .run .he := by
      simp only [List.mem_cons, List.not_mem_nil, or_false] at hc
      rcases hc with rfl | rfl | rfl | rfl | rfl <;> simp [choiceChannel]
    refine ⟨fun d hd => ?_, ?_⟩
    · obtain ⟨hdRt, hdHe⟩ : choiceChannel d ≠ .rt ∧ d ≠ .run .he := by
        simp only [List.mem_cons, List.not_mem_nil, or_false] at hd
        rcases hd with rfl | rfl | rfl <;> simp [choiceChannel, hq]
      exact runChoices_pair_comm ho (hcRt ▸ hdRt.symm) hcHe hdHe hfc (hfree hdRt)
    · exact runChoices_pair_comm_dropResponse ho (by simp [hcRt]) hfc (hfree (by simp))
  · have hdFb : choiceChannel d = .fb := by
      simp only [List.mem_cons, List.not_mem_nil, or_false] at hd
      rcases hd with rfl | rfl <;> rfl
    exact runChoices_pair_comm_dropResponse ho (by simp [hdFb]) (hfree (by simp [hdFb])) (hfree (by simp))

end Sys2Proof.Machine

/-! PROOF. O44: a quiescent block stands still (R156, R141).  None of its guards holds, and a step that is not enabled
changes nothing. -/

namespace Sys2Proof.Machine

section
variable {s : State}

theorem unitReady_of_noWord {u : HwUnit} (h : (s.port u).waiting = []) : unitReady u s = false := by
  simp [unitReady, State.fetch, h]

/-- Nothing is pending at a sink, no unit has a word, and the sequencer waits for an interrupt. -/
theorem not_enabled_of_quiescent {c : Choice} (hc : c ∈ insideChoices) (hs : Quiescent s) (hd : s.rt.waiting = []) :
    enabled c s = false := by
  obtain ⟨hf, hst, hirq, -, hcon, hptx, hhe, hfb⟩ := hs
  cases c with
  | arrive b | spurious | present q => simp [insideChoices] at hc
  | acceptCon => exact conHeld_eq_false.2 hcon
  | acceptPtx => exact ptxHeld_eq_false.2 hptx
  | seq => simp [enabled, seqInstr_of_idle hf hcon hst, hirq]
  | run u =>
    refine unitReady_of_noWord ?_
    cases u with
    | he => exact hhe
    | fb => exact hfb
    | rt => exact hd

end

/-- Settles O44: the choices left are the block's own, and none of them is enabled. -/
theorem quiescentBlockStaysStill : Obligations.QuiescentBlockStaysStill := by
  unfold Obligations.QuiescentBlockStaysStill
  intro s c hs hd harrive hspurious hpresent
  have hc : c ∈ insideChoices := mem_insideChoices ⟨harrive, hspurious, hpresent⟩
  exact (stepWith_eq_dropResponse_iff hc).2 (not_enabled_of_quiescent hc hs hd)

end Sys2Proof.Machine

/-! PROOF. O38: every partition into bursts is admitted (R121, R154).  For each burst an interrupt is raised, its bytes
arrive, and the sequencer takes them in one burst; the block is quiescent again before the next one. -/

namespace Sys2Proof.Machine

/-! ### The bursts of executed words (R117) -/

theorem foldl_burstStep_rx (closed : List (List Byte)) (opened bs : List Byte) :
    (bs.map .rx).foldl burstStep (closed ++ [opened]) = closed ++ [opened ++ bs] := by
  induction bs generalizing opened with
  | nil => simp
  | cons b bs ih =>
    rw [List.map_cons, List.foldl_cons, burstStep_rx, ih, List.append_assoc, List.singleton_append]

/-- BEGIN, an RX for each byte, and END are one more burst, of these bytes. -/
theorem burstsOf_append_burstWords (ws : List ReqWord) (bs : List Byte) :
    burstsOf (ws ++ burstWords bs) = burstsOf ws ++ [bs] := by
  have hfold : burstsOf (ws ++ burstWords bs) = ((burstWords bs).map decode).foldl burstStep (burstsOf ws) := by
    rw [burstsOf, List.foldl_append, List.foldl_map]
    rfl
  have hdecode : (burstWords bs).map decode = [.beginBurst] ++ bs.map .rx ++ [.endBurst] := burst_words_decode bs
  rw [hfold, hdecode, List.foldl_append, List.foldl_append]
  exact foldl_burstStep_rx (burstsOf ws) [] bs

/-! ### The steps of one burst -/

/-- An interrupt without a byte, so that an empty burst is entered too (R116); the arrivals; BEGIN; then the burst is
drained to its END (R119). -/
def burstSteps (header bs : List Byte) : List Choice :=
  .spurious :: bs.map .arrive ++ .seq :: drainSteps header bs

theorem mem_drainSteps {header bs : List Byte} {c : Choice} (h : c ∈ drainSteps header bs) :
    c = .seq ∨ c = .acceptCon := by
  induction bs generalizing header with
  | nil => exact .inl (List.mem_singleton.1 h)
  | cons b bs ih =>
    rcases List.mem_append.1 h with hbyte | hrest
    · exact (List.mem_cons.1 hbyte).imp_right List.eq_of_mem_replicate
    · exact ih hrest

theorem burstSteps_bySequencerOnly {header bs : List Byte} {c : Choice} (h : c ∈ burstSteps header bs) :
    bySequencerOnly c := by
  rintro q rfl
  have hdrain : Choice.present q ∉ drainSteps header bs := fun hmem => by simpa using mem_drainSteps hmem
  simp [burstSteps, hdrain] at h

theorem arrivalsOf_burstSteps (header bs : List Byte) : arrivalsOf (burstSteps header bs) = bs := by
  have hdrain : (drainSteps header bs).flatMap arrivedBytes = [] := by
    rw [List.flatMap_eq_nil_iff]
    intro c hc
    rcases mem_drainSteps hc with rfl | rfl <;> rfl
  simp [arrivalsOf, burstSteps, List.flatMap_map, arrivedBytes, hdrain]

/-! ### What they lead to -/

section
variable {s : State}

/-- Bytes that arrive while an interrupt is pending already. -/
theorem runChoices_arrive_all (bs : List Byte) (hirq : s.irqPend = true) (hresp : s.heOut = none) :
    runChoices (bs.map .arrive) s = { s with prxQ := s.prxQ ++ bs } := by
  induction bs generalizing s with
  | nil => simp [runChoices]
  | cons b bs ih =>
    have hstep : stepWith (.arrive b) s = .next { s with prxQ := s.prxQ ++ [b] } := by
      rw [stepWith, State.dropResponse_of_none hresp, agentStep, State.arrive, ← hirq]
    have hrest := ih (s := { s with prxQ := s.prxQ ++ [b] }) hirq hresp
    rw [List.map_cons, runChoices_cons hstep, hrest, List.append_assoc, List.singleton_append]

/-- The state once `bs` have arrived at an idle block with nothing queued and BEGIN has been executed. -/
def State.burstBegun (s : State) (bs : List Byte) : State :=
  { s with
    heOut := none, irqPend := false, hdr := false, st := .servicing, prxQ := bs
    rt := { s.rt with done := s.rt.done ++ [0x300] } }

theorem runChoices_burstSteps_begins (hs : Quiescent s) (header bs : List Byte) :
    runChoices (burstSteps header bs) s = runChoices (drainSteps header bs) (s.burstBegun bs) := by
  obtain ⟨hf, hst, -, hq, hc, -⟩ := hs
  have harrived : runChoices (.spurious :: bs.map .arrive) s =
      { s with heOut := none, irqPend := true, prxQ := bs } := by
    rw [runChoices_cons rfl, runChoices_arrive_all bs rfl rfl]
    simp [State.spurious, State.dropResponse, hq]
  have hbegin : stepWith .seq { s with heOut := none, irqPend := true, prxQ := bs } = .next (s.burstBegun bs) :=
    stepWith_seq_begins hf hc hst rfl
  rw [burstSteps, runChoices_append, harrived, runChoices_cons hbegin]

/-- A quiescent block executes one burst, of exactly the bytes that arrive, and is quiescent again. -/
theorem runChoices_burstSteps (hs : Quiescent s) (bs : List Byte) :
    Quiescent (runChoices (burstSteps s.cfg.rxHeader bs) s) ∧
      (runChoices (burstSteps s.cfg.rxHeader bs) s).cfg = s.cfg ∧
      burstsOf (runChoices (burstSteps s.cfg.rxHeader bs) s).rt.done = burstsOf s.rt.done ++ [bs] := by
  have hbegins := runChoices_burstSteps_begins hs s.cfg.rxHeader bs
  obtain ⟨hf, -, -, -, hc, hptx, hhe, hfb⟩ := hs
  have hdrained : runChoices (drainSteps s.cfg.rxHeader bs) (s.burstBegun bs) = _ :=
    burstDrainsEveryByte (s.burstBegun bs) hf rfl hc
  have hdone : s.rt.done ++ [0x300] ++ bs.map (fun b => 0x200 ||| b.setWidth 10) ++ [0x301] =
      s.rt.done ++ burstWords bs := by
    have hrx : mkWord 0b10 = fun b => 0x200 ||| b.setWidth 10 := funext encode_rx
    simp only [burstWords, hrx, List.append_assoc]
  rw [hbegins, hdrained]
  exact ⟨⟨hf, rfl, rfl, rfl, hc, hptx, hhe, hfb⟩, rfl,
    (congrArg burstsOf hdone).trans (burstsOf_append_burstWords s.rt.done bs)⟩

/-- One burst after another; the parameters, and with them the header, stay the same. -/
theorem runChoices_bursts (hs : Quiescent s) (bursts : List (List Byte)) :
    Quiescent (runChoices (bursts.flatMap (burstSteps s.cfg.rxHeader)) s) ∧
      burstsOf (runChoices (bursts.flatMap (burstSteps s.cfg.rxHeader)) s).rt.done =
        burstsOf s.rt.done ++ bursts := by
  induction bursts generalizing s with
  | nil => exact ⟨hs, (List.append_nil _).symm⟩
  | cons bs bursts ih =>
    obtain ⟨hquiet, hcfg, hburst⟩ := runChoices_burstSteps hs bs
    have hrest := ih hquiet
    rwa [hcfg, hburst, List.append_assoc, ← runChoices_append] at hrest

end

/-- Settles O38: the steps of each burst in turn, from reset. -/
theorem everyBurstPartitionIsAdmitted : Obligations.EveryBurstPartitionIsAdmitted := by
  unfold Obligations.EveryBurstPartitionIsAdmitted
  intro cfg bursts
  have hreset : Quiescent (State.resetWith cfg) := ⟨rfl, rfl, rfl, rfl, rfl, rfl, rfl, rfl⟩
  obtain ⟨hquiet, hbursts⟩ := runChoices_bursts hreset bursts
  refine ⟨bursts.flatMap (burstSteps cfg.rxHeader), fun c hc => ?_, hquiet, hbursts, ?_⟩
  · obtain ⟨bs, -, hmem⟩ := List.mem_flatMap.1 hc
    exact burstSteps_bySequencerOnly hmem
  · calc arrivalsOf (bursts.flatMap (burstSteps cfg.rxHeader))
        = bursts.flatMap (fun bs => arrivalsOf (burstSteps cfg.rxHeader bs)) := List.flatMap_assoc
      _ = bursts.flatten := by simp [arrivalsOf_burstSteps]

end Sys2Proof.Machine

/-! PROOF. O33, O34, O36: the streams' laws and the command port's account along `step` (R21, R46, R120).  Choosing the
step and dropping the response write neither a list nor a stream, so what every agent's step keeps, every step keeps. -/

namespace Sys2Proof.Machine

/-! ### What a step starts from -/

theorem ptxLaw_afterChoice {s : State} (hl : PtxLaw s) : PtxLaw s.afterChoice.dropResponse := by
  simpa [PtxLaw] using hl

theorem portsOwned_afterChoice {s : State} (ho : PortsOwned s) : PortsOwned s.afterChoice.dropResponse := by
  simpa [PortsOwned] using ho

/-- HE's and FB's lists grow by exactly the word presented to them (R21). -/
theorem step_words {s t : State} {u : HwUnit} (hu : u ≠ .rt) (ho : PortsOwned s) (h : step s = .next t) :
    (t.port u).words = (s.port u).words ++ presentedWords u s.nextChoice := by
  simpa using agentStep_words (fun _ => hu) (portsOwned_afterChoice ho) h

/-! ### The statements -/

/-- Settles O33: the law holds where the agent's step starts, and every agent's step keeps it. -/
theorem ptxLawIsKept : Obligations.PtxLawIsKept := by
  unfold Obligations.PtxLawIsKept
  exact fun s t hl h => agentStep_ptxLaw (ptxLaw_afterChoice hl) h

/-- Settles O34: the console law is one half of the account of received bytes (O35). -/
theorem conLawIsKept : Obligations.ConLawIsKept := by
  unfold Obligations.ConLawIsKept
  intro s t hl h
  obtain ⟨hlaw, -⟩ := everyByteIsAccountedFor s t hl h
  exact hlaw

/-- Settles O36: ownership (O32) and the peripheral law (O33) are kept, and ownership is what makes a unit retire the
head of its own list, so that only presentation adds a word. -/
theorem everyPresentedWordIsAccountedFor : Obligations.EveryPresentedWordIsAccountedFor := by
  unfold Obligations.EveryPresentedWordIsAccountedFor
  intro s t ho hl h
  have hfb : (t.port .fb).words = (s.port .fb).words ++ presentedWords .fb s.nextChoice := step_words (by simp) ho h
  have hhe : (t.port .he).words = (s.port .he).words ++ presentedWords .he s.nextChoice := step_words (by simp) ho h
  exact ⟨portsOwnedIsKept s t ho h, ptxLawIsKept s t hl h, hfb, hhe⟩

end Sys2Proof.Machine

/-! PROOF. O18: RT and FB share no state (R122).  A word that leaves FAULT alone writes its unit's channel, of which the
stream is the sink's to write; only a word of RT raises a fault, and then it writes nothing else. -/

namespace Sys2Proof.Machine

/-- Settles O18: a waiting and a raising word are seen at once; one that completes writes its channel alone. -/
theorem channelsAreSeparate : Obligations.ChannelsAreSeparate := by
  unfold Obligations.ChannelsAreSeparate
  intro i s t h
  obtain ⟨-, hcon, hptx⟩ := exec_keepsStreams h
  refine ⟨fun ho => ?rt, fun ho => ?fb, fun ho => ?he⟩
  case rt =>
    rcases exec_position_cases h with ⟨-, rfl⟩ | ⟨hf, -, ⟨f, rfl⟩ | ⟨htf, -⟩⟩
    · rfl
    · rfl
    · have hfault : t.fault = s.fault := htf.trans hf.symm
      have hw : t = s.splice .rt t := ho ▸ exec_writes hfault h
      rw [State.splice, hcon, ← hfault] at hw
      exact hw
  case fb =>
    have hw : t = s.splice .fb t := ho ▸ exec_writes (exec_fault_of_owner (by simp [ho]) h) h
    rwa [State.splice, hptx] at hw
  case he =>
    have hw : t = s.splice .he t := ho ▸ exec_writes (exec_fault_of_owner (by simp [ho]) h) h
    exact hw

end Sys2Proof.Machine

/-! PROOF. O21, O4, O19, O20: the step and the word it runs (R21, R60, R67; log 1, log 2, log 13, log 22). -/

namespace Sys2Proof.Machine

/-- Settles O21: every agent's step answers a next state, whatever is chosen. -/
theorem everyStepAnswersANextState : Obligations.EveryStepAnswersANextState := by
  unfold Obligations.EveryStepAnswersANextState
  exact fun s => stepWith_isNext s.nextChoice s.afterChoice

/-! ### Numbers as words (R60) -/

theorem tableNumber_of_lt {nbits w : Nat} (h : w < 2 ^ nbits) : tableNumber nbits w = w := Nat.mod_eq_of_lt h

/-- Settles O4: the row's 16 bits are the number itself, and the decoder refuses what 10 bits do not hold. -/
theorem tableWordsOfTenBitsAreRead : Obligations.TableWordsOfTenBitsAreRead := by
  unfold Obligations.TableWordsOfTenBitsAreRead
  intro w hw
  rw [decodeTableWord, tableNumber_of_lt hw, decodeNat]
  by_cases hten : w < 1024
  · rw [if_pos hten, if_pos hten]
  · rw [if_neg hten, if_neg hten]

/-! ### The word that a step runs -/

theorem runUnit_of_waiting {u : HwUnit} {s : State} {q : ReqWord} {rest : List ReqWord}
    (h : (s.port u).waiting = q :: rest) : runUnit u s = exec (decode q) s := by
  rw [runUnit, State.fetch, h, List.head?_cons]

/-- Settles O19: neither the choice nor the dropped response touches the unit's list, so its head is the word. -/
theorem stepRunsTheDecodedWord : Obligations.StepRunsTheDecodedWord := by
  unfold Obligations.StepRunsTheDecodedWord
  intro s u q rest hc hq
  have hwaiting : (s.afterChoice.dropResponse.port u).waiting = q :: rest := by simpa using hq
  rw [step_eq, hc]
  exact runUnit_of_waiting hwaiting

/-! ### A placed word -/

@[simp] theorem State.setPort_sched (s : State) (u : HwUnit) (p : Port) : (s.setPort u p).sched = s.sched := by
  cases u <;> rfl

@[simp] theorem State.setPort_port (s : State) (u : HwUnit) (p : Port) : (s.setPort u p).port u = p := by
  cases u <;> rfl

/-- `s` with the word `q` issued to the unit that owns it. -/
def State.issueWord (s : State) (q : ReqWord) : State :=
  s.setPort (wordOwner q) ((s.port (wordOwner q)).issue q)

theorem State.issueWord_sched (s : State) (q : ReqWord) : (s.issueWord q).sched = s.sched := s.setPort_sched _ _

theorem State.issueWord_waiting (s : State) (q : ReqWord) :
    ((s.issueWord q).port (wordOwner q)).waiting = q :: (s.port (wordOwner q)).waiting := by
  rw [State.issueWord, State.setPort_port, Port.issue_waiting]

/-- `s` with the choice `c` scheduled before all others. -/
def State.scheduleNext (s : State) (c : Choice) : State := { s with sched := c :: s.sched }

@[simp] theorem State.scheduleNext_nextChoice (s : State) (c : Choice) : (s.scheduleNext c).nextChoice = c := rfl
@[simp] theorem State.scheduleNext_afterChoice (s : State) (c : Choice) : (s.scheduleNext c).afterChoice = s := rfl

@[simp] theorem State.scheduleNext_port (s : State) (c : Choice) (u : HwUnit) :
    (s.scheduleNext c).port u = s.port u := by
  cases u <;> rfl

theorem State.withFetchWord_of_lt {w : Nat} (hw : w < 1024) (s : State) :
    s.withFetchWord 16 w =
      (s.issueWord (BitVec.ofNat 10 w)).scheduleNext (.run (wordOwner (BitVec.ofNat 10 w))) := by
  have hn : tableNumber 16 w = w := tableNumber_of_lt (by omega)
  rw [State.withFetchWord, hn, if_pos hw, State.scheduleNext, State.issueWord_sched, State.issueWord]

/-- Settles O20: placing a word puts it at the head of its unit's list and schedules that unit, so O19 applies. -/
theorem placedWordRunsNext : Obligations.PlacedWordRunsNext := by
  unfold Obligations.PlacedWordRunsNext
  intro s w hw q
  have hq : (((s.issueWord q).scheduleNext (.run (wordOwner q))).port (wordOwner q)).waiting =
      q :: (s.port (wordOwner q)).waiting := by
    rw [State.scheduleNext_port, State.issueWord_waiting]
  rw [State.withFetchWord_of_lt hw]
  exact stepRunsTheDecodedWord _ _ _ _ (State.scheduleNext_nextChoice _ _) hq

end Sys2Proof.Machine

/-! PROOF. O29, O30, O37: reset, and the console stream in every run from it (R46, R121, R150).  The laws hold of the
reset state, every step keeps them, and the parameters are never written. -/

namespace Sys2Proof.Machine

/-! ### The reset state (R150) -/

/-- Settles O29: each of the three is the record of R150's values, its parameters and schedule aside. -/
theorem resetLeavesTheResetValues : Obligations.ResetLeavesTheResetValues := by
  unfold Obligations.ResetLeavesTheResetValues
  intro cfg s r hr
  simp only [List.mem_cons, List.not_mem_nil, or_false] at hr
  rcases hr with rfl | rfl | rfl <;> exact ⟨rfl, rfl, rfl, rfl, rfl, rfl, rfl, rfl, rfl, rfl⟩

/-- No word is executed, so there is no burst, and none is open. -/
theorem conLaw_resetWith (cfg : BlockConfig) : ConLaw (State.resetWith cfg) :=
  ⟨rfl, fun hst => absurd hst (by simp [State.resetWith]), fun _ => rfl⟩

theorem quiescent_resetWith (cfg : BlockConfig) : Quiescent (State.resetWith cfg) :=
  ⟨rfl, rfl, rfl, rfl, rfl, rfl, rfl, rfl⟩

/-- Settles O30: the model's reset state is the reset state with particular parameters, of which no clause speaks. -/
theorem resetMeetsTheInvariants : Obligations.ResetMeetsTheInvariants := by
  unfold Obligations.ResetMeetsTheInvariants
  intro cfg r hr
  obtain ⟨c, rfl⟩ : ∃ c, r = State.resetWith c := by
    simp only [List.mem_cons, List.not_mem_nil, or_false] at hr
    exact hr.elim (fun h => ⟨Config.atReset, h⟩) fun h => ⟨cfg, h⟩
  exact ⟨(sequencerDriven_reset c).sound, (peripheralAccount_reset c).owned, (peripheralAccount_reset c).law,
    conLaw_resetWith c, quiescent_resetWith c⟩

/-! ### The console stream over whole runs (R121) -/

/-- What a run's steps and its state have in common at the console channel. -/
structure ConsoleAccount (cfg : BlockConfig) (cs : List Choice) (s : State) : Prop where
  law : ConLaw s
  cfg_eq : s.cfg = cfg
  bytes : receivedBytes s = arrivalsOf cs

theorem consoleAccount_reset (cfg : BlockConfig) : ConsoleAccount cfg [] (State.resetWith cfg) where
  law := conLaw_resetWith cfg
  cfg_eq := rfl
  bytes := rfl

theorem stepWith_consoleAccount {cfg : BlockConfig} {cs : List Choice} {c : Choice} {s t : State}
    (ha : ConsoleAccount cfg cs s) (h : stepWith c s = .next t) : ConsoleAccount cfg (cs ++ [c]) t := by
  obtain ⟨hlaw, hbytes⟩ := agentStep_accountsFor (s := s.dropResponse) ha.law h
  obtain ⟨hcfg, -⟩ := agentStep_streamsGrow h
  refine ⟨hlaw, hcfg.trans ha.cfg_eq, ?_⟩
  calc receivedBytes t
      = receivedBytes s ++ arrivedBytes c := hbytes
    _ = arrivalsOf (cs ++ [c]) := by simp [ha.bytes, arrivalsOf]

/-- Settles O37: the account holds of every run from reset; a quiescent state has no byte pending and none queued. -/
theorem consoleStreamIsTheBurstsOutput : Obligations.ConsoleStreamIsTheBurstsOutput := by
  unfold Obligations.ConsoleStreamIsTheBurstsOutput
  intro cfg cs s
  have ha : ConsoleAccount cfg cs s :=
    runChoices_induction (consoleAccount_reset cfg) (fun _ _ _ _ => stepWith_consoleAccount) cs
  obtain ⟨hstream, -, -⟩ := ha.law
  have hout : s.conOut ++ s.conPend = (burstsOf s.rt.done).flatMap (burstOut cfg.rxHeader) := ha.cfg_eq ▸ hstream
  have hbytes : (burstsOf s.rt.done).flatten ++ s.prxQ = arrivalsOf cs := ha.bytes
  refine ⟨hout, hbytes, ?_⟩
  rintro ⟨-, -, -, hqueue, hpend, -⟩
  exact ⟨by simpa [hpend] using hout, by simpa [hqueue] using hbytes⟩

end Sys2Proof.Machine

/-! PROOF. O41: the late arrival (R158).  The burst drains the byte (O40) and keeps IRQ_PEND, so the sequencer enters
again, finds nothing to take and leaves. -/

namespace Sys2Proof.Machine

/-- An interrupt with nothing queued makes an empty burst, BEGIN and END, which emits nothing (R118, R120). -/
theorem runChoices_emptyBurst {s : State} (hf : s.fault = none) (hst : s.st = .idle) (hhdr : s.hdr = false)
    (hirq : s.irqPend = true) (hq : s.prxQ = []) (hc : s.conPend = []) (hresp : s.heOut = none) :
    runChoices [.seq, .seq] s =
      { s with irqPend := false, rt := { s.rt with done := s.rt.done ++ [0x300, 0x301] } } := by
  have hbegin := stepWith_seq_begins hf hc hst hirq
  have hend := stepWith_seq_ends (s := { s with
    heOut := none, irqPend := false, hdr := false, st := .servicing
    rt := { s.rt with done := s.rt.done ++ [0x300] } }) hf hc rfl hq
  rw [runChoices_cons hbegin, runChoices_cons hend, runChoices]
  simp [hst, hhdr, hresp]

/-- The state once the byte `b` has arrived in an open burst with an empty buffer, and the burst has drained it and
ended. -/
def State.lateArrivalDrained (s : State) (b : Byte) : State :=
  { s with
    st := .idle, hdr := false, irqPend := true, prxQ := [], heOut := none
    conOut := s.conOut ++ (s.pendingHeader ++ digitPair b)
    rt := { s.rt with done := s.rt.done ++ [0x200 ||| b.setWidth 10] ++ [0x301] } }

theorem runChoices_lateArrival {s : State} (hf : s.fault = none) (hst : s.st = .servicing) (hc : s.conPend = [])
    (hq : s.prxQ = []) (b : Byte) :
    runChoices (.arrive b :: drainSteps s.pendingHeader [b]) s = s.lateArrivalDrained b := by
  have harrive : stepWith (.arrive b) s = .next (s.dropResponse.arrive b) := rfl
  have hqueue : (s.dropResponse.arrive b).prxQ = [b] := by simp [hq]
  have hheader : (s.dropResponse.arrive b).pendingHeader = s.pendingHeader := rfl
  have hdrain := burstDrainsEveryByte (s.dropResponse.arrive b) hf hst hc
  rw [hqueue, hheader] at hdrain
  rw [runChoices_cons harrive, hdrain]
  simp [State.lateArrivalDrained]

/-- Settles O41: the drained state meets the conditions of the empty burst. -/
theorem lateArrivalCausesAnEmptyBurst : Obligations.LateArrivalCausesAnEmptyBurst := by
  unfold Obligations.LateArrivalCausesAnEmptyBurst
  intro s b hf hst hc hq afterBurst
  have hafter : afterBurst = s.lateArrivalDrained b := runChoices_lateArrival hf hst hc hq b
  rw [hafter]
  exact ⟨rfl, rfl, rfl, hc, (List.append_assoc ..).symm, runChoices_emptyBurst hf rfl rfl rfl rfl hc rfl⟩

end Sys2Proof.Machine
